-- ==== Sys2Proof/Word.lean ====
section
/-! DEFINITION. The word types of the GCB block, the family of six that every indexed register is
(axes 1 to 6, slots 0 to 5), and the records that cross its ports: the 9-byte Frame
(30_encoding.md R95) and the bus frames of the two channels (20_memory.md R80, R81). -/

namespace Sys2Proof

/-- Eight bits (00_scope.md R11). -/
abbrev Byte := BitVec 8

/-- The 32 bits of every host access (00_scope.md R9, `DATA_BITS`). -/
abbrev Word := BitVec 32

/-- The byte address of a host access, `ADDR_BITS` = 9 (00_scope.md R9, 20_memory.md R61). -/
abbrev HostAddr := BitVec 9

/-- The index of an axis or a slot: axis `a` and slot `s = a - 1` both have index `a - 1`
(10_state.md R27, R31). -/
abbrev Index := Fin 6

/-- Six like things, one for each axis or slot (00_scope.md R8, `NAX` = 6). -/
structure Six (α : Type) where
  e0 : α
  e1 : α
  e2 : α
  e3 : α
  e4 : α
  e5 : α
deriving DecidableEq, Repr

namespace Six

/-- The element of index `i`. -/
def get {α : Type} (v : Six α) : Index → α
  | ⟨0, _⟩ => v.e0
  | ⟨1, _⟩ => v.e1
  | ⟨2, _⟩ => v.e2
  | ⟨3, _⟩ => v.e3
  | ⟨4, _⟩ => v.e4
  | ⟨5, _⟩ => v.e5

/-- The same six with the element of index `i` replaced. -/
def set {α : Type} (v : Six α) (i : Index) (x : α) : Six α :=
  match i with
  | ⟨0, _⟩ => { v with e0 := x }
  | ⟨1, _⟩ => { v with e1 := x }
  | ⟨2, _⟩ => { v with e2 := x }
  | ⟨3, _⟩ => { v with e3 := x }
  | ⟨4, _⟩ => { v with e4 := x }
  | ⟨5, _⟩ => { v with e5 := x }

/-- Six times the same element. -/
def fill {α : Type} (x : α) : Six α := ⟨x, x, x, x, x, x⟩

/-- The six values of a function of the index. -/
def ofFn {α : Type} (f : Index → α) : Six α := ⟨f 0, f 1, f 2, f 3, f 4, f 5⟩

/-- A function applied to each of the six. -/
def map {α β : Type} (f : α → β) (v : Six α) : Six β :=
  ⟨f v.e0, f v.e1, f v.e2, f v.e3, f v.e4, f v.e5⟩

/-- The six in index order. -/
def toList {α : Type} (v : Six α) : List α := [v.e0, v.e1, v.e2, v.e3, v.e4, v.e5]

/-- All six are true. -/
def allTrue (v : Six Bool) : Bool := v.e0 && v.e1 && v.e2 && v.e3 && v.e4 && v.e5

end Six

/-- A Frame: exactly nine bytes `B[0..8]`, first byte first (30_encoding.md R95). In a well-formed
Frame `b0` is the axis id, `b1` the opcode, `b2 b3` the speed, `b4` the subcommand, `b5 b6 b7` the
displacement and `b8` the checksum; a slot may hold any nine bytes (44_buffer_system.md R231). -/
structure Frame where
  b0 : Byte
  b1 : Byte
  b2 : Byte
  b3 : Byte
  b4 : Byte
  b5 : Byte
  b6 : Byte
  b7 : Byte
  b8 : Byte
deriving DecidableEq, Repr

/-- Nine zero bytes. -/
def Frame.zero : Frame := ⟨0, 0, 0, 0, 0, 0, 0, 0, 0⟩

/-- A bus frame the block emits on the transmit channel (20_memory.md R80, 30_encoding.md R100). -/
structure TxFrame where
  id : BitVec 11
  extended : Bool
  dlc : Nat
  data : List Byte
deriving DecidableEq, Repr

/-- A bus frame of the receive channel (20_memory.md R81): an 11-bit id and 0 to 8 data bytes.
Extended and remote frames cannot be carried, and the type has none (log entry 22). -/
structure RxFrame where
  id : BitVec 11
  data : List Byte
  atMostEight : data.length ≤ 8
deriving DecidableEq, Repr

/-- The length of a received frame: the number of its data bytes (20_memory.md R81). -/
def RxFrame.dlc (f : RxFrame) : Nat := f.data.length

end Sys2Proof
end

