-- ==== Sys2Proof/Config.lean ====
section
/-! DEFINITION. The parameters the spec leaves open (00_scope.md R10), as plain data: a machine has one
`Config`, held in State and changed by no step (log entries 8, 9). `TICK_PERIOD` is read by no rule and
is left out (log entry 10); `RXQ` is the order of the schedule (log entry 2). -/

namespace Sys2Proof

/-- One place where a `SPEED_NORM` differs from the default: for this `(speed, ref)` the rewritten
speed is `adjusted`. -/
structure SpeedNormEntry where
  speed : BitVec 16
  ref : BitVec 16
  adjusted : BitVec 16
deriving DecidableEq, Repr

/-- The open parameters. `speedNorm` lists where `SPEED_NORM` differs from the default; since
`(speed, ref)` has finitely many values, every function of it has such a list
(`Machine.speedNorm_represents_any`), so a claim over all `Config` is a claim over all `SPEED_NORM`. -/
structure Config where
  /-- `INV_EFFECT` (00_scope.md R10, 40_position_encode.md R124). -/
  invEffect : Bool
  /-- `SPEED_NORM` (00_scope.md R10, 42_speed_sync.md R174, R177). -/
  speedNorm : List SpeedNormEntry
deriving DecidableEq, Repr

/-- The shipped defaults: `INV_EFFECT = false` and the exact `SPEED_NORM` (00_scope.md R10). -/
def Config.shipped : Config := { invEffect := false, speedNorm := [] }

end Sys2Proof
end

