-- ==== Sys2Proof/Syntax.lean ====
section
/-! DEFINITION. The syntax of the block: the instructions (one constructor for each row of
spec/opcode_table.json), the host registers of 10_state.md R47 by name, and the steps of the agents of
00_scope.md R7. -/

namespace Sys2Proof

/-- One constructor for each row of the opcode table: the eight commands a host writes to `CMD`
(30_encoding.md R91) and the Frame the sequencer transmits (30_encoding.md R95, log entry 5). -/
inductive Instr where
  /-- `NOP` (44_buffer_system.md R245). -/
  | nop
  /-- `ENCF a`: encode one Frame; `a` is the whole `A` field (40_position_encode.md R127). -/
  | encf (a : Byte)
  /-- `ENCP`: encode a Packet (40_position_encode.md R128). -/
  | encp
  /-- `LDF s`: load `FIN` into a slot; `s` is the whole `A` field (44_buffer_system.md R230). -/
  | ldf (s : Byte)
  /-- `SYNC`: normalise the speeds (42_speed_sync.md R176). -/
  | sync
  /-- `SEND`: start the packet (43_transmit.md R186). -/
  | send
  /-- `AXRST`: reset AxisState (44_buffer_system.md R240). -/
  | axrst
  /-- `PCLR`: discard the packet being assembled (44_buffer_system.md R235). -/
  | pclr
  /-- `FRAME`: the Frame layout of 30_encoding.md R95, bytes `axisId F5 speed 02 position checksum`. -/
  | frame (axisId : Byte) (speed : BitVec 16) (position : BitVec 24) (checksum : Byte)
deriving DecidableEq, Repr

/-- The host registers, by their names in 10_state.md R47. The index of an axis register is its axis
id minus one; the index of a packet word is its slot. -/
inductive HostReg where
  | cmd
  | status
  | ev
  | ie
  | timeout
  | timer
  | feed
  | refSpeed
  | tgt (i : Index)
  | gear (i : Index)
  | inv
  | lastLo (i : Index)
  | lastHi (i : Index)
  | initLo (i : Index)
  | initHi (i : Index)
  | fin0
  | fin1
  | fin2
  | pktw0 (i : Index)
  | pktw1 (i : Index)
  | pktw2 (i : Index)
deriving DecidableEq, Repr

/-- The steps of the agents (00_scope.md R7; script lines of 30_encoding.md R105). -/
inductive Event where
  /-- HOST: write `v` at byte address `addr` (44_buffer_system.md R250). -/
  | wr (addr : HostAddr) (v : Word)
  /-- HOST: read at byte address `addr` (44_buffer_system.md R251). -/
  | rd (addr : HostAddr)
  /-- TXSINK: take the presented bus frame (43_transmit.md R195). -/
  | txacc
  /-- RXSRC: hand over one received bus frame (43_transmit.md R200). -/
  | rx (f : RxFrame)
  /-- TIMEBASE: one unit of time (43_transmit.md R205). -/
  | tick
  /-- RESET: hardware reset (70_reset_and_hazards.md R290). -/
  | rst
deriving DecidableEq, Repr

end Sys2Proof
end

