-- ==== Sys2Proof/WellFormed.lean ====
section
/-! DEFINITION. When an instruction is well-formed: its operand lies in the range 30_encoding.md R93
defines it for, and a Frame carries its checksum (30_encoding.md R98, R99). An instruction that is not
well-formed still has a meaning (`ERR_ARG`, or the transmission of the bytes as they are). -/

namespace Sys2Proof

/-- The sum of the first eight bytes of a FRAME, modulo 256 (30_encoding.md R98). -/
def frameSum (axisId : Byte) (speed : BitVec 16) (position : BitVec 24) : Byte :=
  axisId + 0xF5 + speed.extractLsb' 8 8 + speed.extractLsb' 0 8 + 0x02
    + position.extractLsb' 16 8 + position.extractLsb' 8 8 + position.extractLsb' 0 8

/-- The operand ranges of 30_encoding.md R93 and the checksum of R98. -/
def Instr.wellFormed : Instr → Bool
  | .nop => true
  | .encf a => decide (1 ≤ a.toNat ∧ a.toNat ≤ 6)
  | .encp => true
  | .ldf s => decide (s.toNat ≤ 5)
  | .sync => true
  | .send => true
  | .axrst => true
  | .pclr => true
  | .frame axisId speed position checksum => checksum == frameSum axisId speed position

end Sys2Proof
end

