-- ==== Sys2Proof/Decode.lean ====
section
/-! DEFINITION. The decoder (30_encoding.md R90 to R95), total and rejecting by name, and after it the
encoder written from the same tables. -/

namespace Sys2Proof

/-- What is decoded: a 32-bit command word written to `CMD` (30_encoding.md R90), or the 72 bits of a
Frame, `B[0]` in the most significant byte as the pattern of 30_encoding.md R95 is written
(log entry 6). -/
inductive Code where
  | command (w : Word)
  | frame (w : BitVec 72)
deriving DecidableEq, Repr

/-- Why a code is no instruction (30_encoding.md R92; 30_encoding.md R95 for a Frame). -/
inductive DecodeError where
  /-- Bits 31..16 of a command word are not 0. -/
  | zeroFieldNotZero
  /-- `OP` is in `0x08`..`0xFF`. -/
  | reservedOpcode
  /-- `A` is not 0 for a command without an operand. -/
  | operandNotZero
  /-- `B[1]` of a Frame is not `0xF5`. -/
  | frameOpcode
  /-- `B[4]` of a Frame is not `0x02`. -/
  | frameSubcommand
deriving DecidableEq, Repr

/-- The `OP` field, bits 7:0 (30_encoding.md R90). -/
def opField (w : Word) : Byte := w.extractLsb' 0 8

/-- The `A` field, bits 15:8 (30_encoding.md R90). -/
def aField (w : Word) : Byte := w.extractLsb' 8 8

/-- The `ZERO` field, bits 31:16 (30_encoding.md R90). -/
def zeroField (w : Word) : BitVec 16 := w.extractLsb' 16 16

/-- A command whose `A` field must be 0 (30_encoding.md R90, R92). -/
def withoutOperand (w : Word) (i : Instr) : Except DecodeError Instr :=
  if aField w = 0 then .ok i else .error .operandNotZero

/-- The opcode map of 30_encoding.md R91; every other word is reserved (R92). -/
def decodeCommand (w : Word) : Except DecodeError Instr :=
  if zeroField w ≠ 0 then .error .zeroFieldNotZero
  else if opField w = 0x00 then withoutOperand w .nop
  else if opField w = 0x01 then .ok (.encf (aField w))
  else if opField w = 0x02 then withoutOperand w .encp
  else if opField w = 0x03 then .ok (.ldf (aField w))
  else if opField w = 0x04 then withoutOperand w .sync
  else if opField w = 0x05 then withoutOperand w .send
  else if opField w = 0x06 then withoutOperand w .axrst
  else if opField w = 0x07 then withoutOperand w .pclr
  else .error .reservedOpcode

/-- The Frame layout of 30_encoding.md R95: `B[1]` and `B[4]` are fixed; the checksum is taken as it
stands, since the block checks none (30_encoding.md R99, log entry 7). -/
def decodeFrameBits (w : BitVec 72) : Except DecodeError Instr :=
  if w.extractLsb' 56 8 ≠ 0xF5 then .error .frameOpcode
  else if w.extractLsb' 32 8 ≠ 0x02 then .error .frameSubcommand
  else .ok (.frame (w.extractLsb' 64 8) (w.extractLsb' 40 16) (w.extractLsb' 8 24) (w.extractLsb' 0 8))

/-- The decoder of both formats. -/
def decode : Code → Except DecodeError Instr
  | .command w => decodeCommand w
  | .frame w => decodeFrameBits w

/-- A command word from its operand and opcode (30_encoding.md R90). -/
def commandWord (a op : Byte) : Word := (0#16 ++ a) ++ op

/-- The encoder: the code of an instruction (30_encoding.md R91, R95). -/
def encode : Instr → Code
  | .nop => .command (commandWord 0 0x00)
  | .encf a => .command (commandWord a 0x01)
  | .encp => .command (commandWord 0 0x02)
  | .ldf s => .command (commandWord s 0x03)
  | .sync => .command (commandWord 0 0x04)
  | .send => .command (commandWord 0 0x05)
  | .axrst => .command (commandWord 0 0x06)
  | .pclr => .command (commandWord 0 0x07)
  | .frame axisId speed position checksum =>
      .frame (((((axisId ++ 0xF5#8) ++ speed) ++ 0x02#8) ++ position) ++ checksum)

/-- The code of a row of spec/opcode_table.json whose bits are `w`: a command word up to 32 bits, the
Frame pattern above (log entry 6). -/
def Code.ofTable (nbits w : Nat) : Code :=
  if nbits ≤ 32 then .command (BitVec.ofNat 32 w) else .frame (BitVec.ofNat 72 w)

/-- The instruction the decoder reads from a row's bits, or none where it refuses. -/
def decodeTableWord (nbits w : Nat) : Option Instr := (decode (Code.ofTable nbits w)).toOption

/-- The nine bytes of a Frame as the 72-bit pattern of 30_encoding.md R95, `B[0]` leftmost. -/
def Frame.toBits (f : Frame) : BitVec 72 :=
  (((((((f.b0 ++ f.b1) ++ f.b2) ++ f.b3) ++ f.b4) ++ f.b5) ++ f.b6) ++ f.b7) ++ f.b8

/-- The nine bytes of the 72-bit pattern of 30_encoding.md R95. -/
def Frame.ofBits (w : BitVec 72) : Frame :=
  { b0 := w.extractLsb' 64 8, b1 := w.extractLsb' 56 8, b2 := w.extractLsb' 48 8
    b3 := w.extractLsb' 40 8, b4 := w.extractLsb' 32 8, b5 := w.extractLsb' 24 8
    b6 := w.extractLsb' 16 8, b7 := w.extractLsb' 8 8, b8 := w.extractLsb' 0 8 }

end Sys2Proof
end

