-- ==== Sys2Proof/Machine/State.lean ====
section
/-! DEFINITION. The state of the block (10_state.md), its reset (70_reset_and_hazards.md R291), and the
reasons a step of the model can stop. All plain data. -/

namespace Sys2Proof.Machine

/-- The five states of the sequencer (10_state.md R40). Codes 5, 6, 7 are never held and have no value
here (93_implementation_defined.md U15). -/
inductive Fsm where
  | idle
  | sending
  | awaitingAck
  | satisfied
  | timedOut
deriving DecidableEq, Repr

/-- The latest status byte observed from one expected responder (10_state.md R42): `NONE`, 1 or 2. The
value 3 is never held and has no value here. -/
inductive AckStatus where
  | noResponse
  | status1
  | status2
deriving DecidableEq, Repr

/-- The six flags of `EV` and of `IE` (10_state.md R45, R46). Reserved bits read 0 and ignore writes,
so they are not held. -/
structure EventFlags where
  sat : Bool
  timedOut : Bool
  errBusy : Bool
  errPkt : Bool
  errArg : Bool
  errOp : Bool
deriving DecidableEq, Repr

/-- All six flags 0. -/
def EventFlags.clear : EventFlags := ⟨false, false, false, false, false, false⟩

/-- The refusals of the block (60_exceptions.md R261), by the flag each sets. -/
inductive Err where
  | busy
  | pkt
  | arg
  | op
deriving DecidableEq, Repr

/-- The whole state. Fields from `feed` to `ie` are the spec's; `config`, `schedule`, `emitted` and
`hostReads` are the model's own (log entries 1, 8, 15). -/
structure State where
  /-- The parameters of 00_scope.md R10; no step changes them (log entry 8). -/
  config : Config
  /-- `FEED` (10_state.md R22). -/
  feed : BitVec 16
  /-- `TGT[1..6]`, Q16.16 (10_state.md R23). -/
  tgt : Six Word
  /-- `GEAR[1..6]`, UQ8.8 (10_state.md R24). -/
  gear : Six (BitVec 16)
  /-- `INV`; bit `a-1` is `INV[a]` (10_state.md R25). -/
  inv : BitVec 6
  /-- `INIT[1..6]`, 24 fraction bits; hardwired 0 (10_state.md R28, log entry 13). -/
  init : Six (BitVec 48)
  /-- `LAST[1..6]`, 24 fraction bits (10_state.md R29). -/
  last : Six (BitVec 48)
  /-- `PKT[0..5]` (10_state.md R31). -/
  pkt : Six Frame
  /-- `PVALID[0..5]` (10_state.md R32). -/
  pvalid : Six Bool
  /-- `FIN.B[0..8]` (10_state.md R38). -/
  fin : Frame
  /-- `REFSPEED` (10_state.md R39). -/
  refSpeed : BitVec 16
  /-- `FSM` (10_state.md R40). -/
  fsm : Fsm
  /-- `TXIDX`, 0 to 6 (10_state.md R41). -/
  txIdx : Fin 7
  /-- `ACK[1]` (10_state.md R42). -/
  ack1 : AckStatus
  /-- `ACK[2]` (10_state.md R42). -/
  ack2 : AckStatus
  /-- `TIMER` (10_state.md R43). -/
  timer : Word
  /-- `TIMEOUT`, its 31 writable bits (10_state.md R44). -/
  timeout : BitVec 31
  /-- `EV` (10_state.md R45). -/
  ev : EventFlags
  /-- `IE` (10_state.md R46). -/
  ie : EventFlags
  /-- The agents' coming steps, earliest first (log entries 1, 2, 3). -/
  schedule : List Event
  /-- The bus frames emitted so far, oldest first (00_scope.md R13 `emit`; log entry 15). -/
  emitted : List TxFrame
  /-- The values returned to the host by `RD` so far, oldest first (20_memory.md R62; log entry 15). -/
  hostReads : List Word
deriving DecidableEq, Repr

/-- The block has no traps and nothing in the spec stops it (60_exceptions.md, introduction and R262),
so no fault exists. -/
inductive Fault where
deriving DecidableEq, Repr

/-- Why the model gives a step no meaning. -/
inductive Refusal where
  /-- An instruction without a meaning yet; raised by `exec`'s refused arms only (there are none left).
  Safe: nothing is claimed of such a step. -/
  | notModelled (mnemonic : String)
  /-- A host access whose address is not a multiple of 4; raised by the `WR` and `RD` steps. "ill-formed
  and has no meaning (a model refuses it)" (20_memory.md R65, log entry 14). Safe: the interface cannot
  express it. -/
  | unalignedHostAccess (addr : HostAddr)
deriving DecidableEq, Repr

/-- The state right after hardware reset (70_reset_and_hazards.md R291). The model's own fields hold
nothing, and the parameters their shipped defaults (log entry 18). -/
def State.reset : State where
  config := Config.shipped
  feed := 0
  tgt := Six.fill 0
  gear := Six.fill 0x0100
  inv := 0
  init := Six.fill 0
  last := Six.fill 0
  pkt := Six.fill Frame.zero
  pvalid := Six.fill false
  fin := Frame.zero
  refSpeed := 0
  fsm := .idle
  txIdx := 0
  ack1 := .noResponse
  ack2 := .noResponse
  timer := 0
  timeout := 0
  ev := EventFlags.clear
  ie := EventFlags.clear
  schedule := []
  emitted := []
  hostReads := []

end Sys2Proof.Machine
end

