-- ==== Sys2Proof/Machine/Flags.lean ====
section
/-! DEFINITION. The event flags: their register form, write-one-to-clear, raising one, the interrupt
line (10_state.md R45, R46; 20_memory.md R66, R68; 60_exceptions.md R261, R270). -/

namespace Sys2Proof.Machine

/-- The register form of the flags: bits 0, 1, 8, 9, 10, 11, every other bit 0 (10_state.md R45). -/
def EventFlags.toWord (f : EventFlags) : Word :=
  (((((0#20 ++ BitVec.ofBool f.errOp) ++ BitVec.ofBool f.errArg) ++ BitVec.ofBool f.errPkt)
    ++ BitVec.ofBool f.errBusy) ++ 0#6) ++ BitVec.ofBool f.timedOut ++ BitVec.ofBool f.sat

/-- The flags a written word names: `v and 0x00000F03` (20_memory.md R66). -/
def EventFlags.ofWord (v : Word) : EventFlags where
  sat := v.getLsbD 0
  timedOut := v.getLsbD 1
  errBusy := v.getLsbD 8
  errPkt := v.getLsbD 9
  errArg := v.getLsbD 10
  errOp := v.getLsbD 11

/-- Write-one-to-clear: a flag stays 1 only where the written flag is 0 (20_memory.md R68). -/
def EventFlags.clearBy (f w : EventFlags) : EventFlags where
  sat := f.sat && !w.sat
  timedOut := f.timedOut && !w.timedOut
  errBusy := f.errBusy && !w.errBusy
  errPkt := f.errPkt && !w.errPkt
  errArg := f.errArg && !w.errArg
  errOp := f.errOp && !w.errOp

/-- The flags with the flag of one refusal set (60_exceptions.md R261); a flag already 1 stays 1
(10_state.md R45). -/
def EventFlags.withErr (f : EventFlags) : Err → EventFlags
  | .busy => { f with errBusy := true }
  | .pkt => { f with errPkt := true }
  | .arg => { f with errArg := true }
  | .op => { f with errOp := true }

/-- Some flag of one set is 1 where the other's is: `(EV and IE) ≠ 0` (60_exceptions.md R270). -/
def EventFlags.meets (f g : EventFlags) : Bool :=
  (f.sat && g.sat) || (f.timedOut && g.timedOut) || (f.errBusy && g.errBusy)
    || (f.errPkt && g.errPkt) || (f.errArg && g.errArg) || (f.errOp && g.errOp)

/-- The interrupt output, a level computed from the state (60_exceptions.md R270). -/
def State.irq (s : State) : Bool := s.ev.meets s.ie

/-- `busy`: `SENDING` or `AWAITING_ACK` (00_scope.md R13). -/
def Fsm.busy : Fsm → Bool
  | .idle => false
  | .sending => true
  | .awaitingAck => true
  | .satisfied => false
  | .timedOut => false

/-- The sequencer is sending or awaiting (00_scope.md R13). -/
def State.busy (s : State) : Bool := s.fsm.busy

end Sys2Proof.Machine
end

