-- ==== Sys2Proof/Machine/Operands.lean ====
section
/-! DEFINITION. The operand forms and the arithmetic of the encoder: operand ranges (30_encoding.md R93),
the fixed-point displacement (40_position_encode.md R120 to R124), the Frame and its fields
(30_encoding.md R95 to R98, R104), the reference speed (42_speed_sync.md R171 to R174). -/

namespace Sys2Proof.Machine

/-! Operand ranges. -/

/-- The axis an `A` field names: defined for 1..6 (30_encoding.md R93). -/
def axisOperand (a : Byte) : Option Index :=
  if h : 1 ≤ a.toNat ∧ a.toNat ≤ 6 then some ⟨a.toNat - 1, by omega⟩ else none

/-- The slot an `A` field names: defined for 0..5 (30_encoding.md R93). -/
def slotOperand (s : Byte) : Option Index :=
  if h : s.toNat ≤ 5 then some ⟨s.toNat, by omega⟩ else none

/-- The axis id of an index, as a byte (10_state.md R27). -/
def axisId (i : Index) : Byte := BitVec.ofNat 8 (i.val + 1)

/-- The slot `TXIDX` names; 6 names none (10_state.md R41). -/
def slotOf (k : Fin 7) : Option Index :=
  if h : k.val < 6 then some ⟨k.val, h⟩ else none

/-! The displacement. -/

/-- The one conversion to an integer: `truncz(n / 2^24)`, truncation toward zero (40_position_encode.md
R121, 00_scope.md R12, 90_conflicts.md C1). -/
def truncz (n : Int) : Int := n.tdiv (2 ^ 24)

/-- `P`, the exact product `target * gearRatio` scaled by `2^24` (40_position_encode.md R120). -/
def position (tgt : Word) (gear : BitVec 16) : Int := tgt.toInt * (gear.toNat : Int)

/-- `d`, the displacement in hundredths: `truncz((P - INIT) * 100 / 2^24)`, negated when `invert`
(40_position_encode.md R120, R124). -/
def displacement (p : Int) (origin : BitVec 48) (invert : Bool) : Int :=
  let d := truncz ((p - origin.toInt) * 100)
  if invert then -d else d

/-- `D = d mod 2^24` (40_position_encode.md R120, R122; 30_encoding.md R97). -/
def pack24 (d : Int) : BitVec 24 := BitVec.ofInt 24 d

/-! The Frame. -/

/-- `{hi, lo}`: a 16-bit field of two bytes, big-endian (30_encoding.md R96). -/
def speedOf (f : Frame) : BitVec 16 := f.b2 ++ f.b3

/-- The Frame with its speed field rewritten (30_encoding.md R96, 42_speed_sync.md R174). -/
def withSpeed (f : Frame) (v : BitVec 16) : Frame :=
  { f with b2 := v.extractLsb' 8 8, b3 := v.extractLsb' 0 8 }

/-- The displacement field of a Frame (30_encoding.md R97). -/
def displacementOf (f : Frame) : BitVec 24 := (f.b5 ++ f.b6) ++ f.b7

/-- `bytesum(B[0..7])` (30_encoding.md R98, 00_scope.md R12). -/
def bytesum (f : Frame) : Byte := f.b0 + f.b1 + f.b2 + f.b3 + f.b4 + f.b5 + f.b6 + f.b7

/-- A Frame is well-formed when its fixed bytes and its checksum are right (30_encoding.md R99). -/
def frameWellFormed (f : Frame) : Bool := f.b1 == 0xF5 && f.b4 == 0x02 && f.b8 == bytesum f

/-- The Frame of an axis id, a feed rate and a displacement field (40_position_encode.md R125). -/
def buildFrame (axis : Byte) (feed : BitVec 16) (d : BitVec 24) : Frame :=
  let f : Frame :=
    { b0 := axis, b1 := 0xF5
      b2 := feed.extractLsb' 8 8, b3 := feed.extractLsb' 0 8
      b4 := 0x02
      b5 := d.extractLsb' 16 8, b6 := d.extractLsb' 8 8, b7 := d.extractLsb' 0 8
      b8 := 0 }
  { f with b8 := bytesum f }

/-- The nine bytes a FRAME instruction stands for (30_encoding.md R95). -/
def frameBytes (axis : Byte) (speed : BitVec 16) (disp : BitVec 24) (checksum : Byte) : Frame :=
  { b0 := axis, b1 := 0xF5
    b2 := speed.extractLsb' 8 8, b3 := speed.extractLsb' 0 8
    b4 := 0x02
    b5 := disp.extractLsb' 16 8, b6 := disp.extractLsb' 8 8, b7 := disp.extractLsb' 0 8
    b8 := checksum }

/-- The bus frame a Frame goes out as (30_encoding.md R100). -/
def marshal (f : Frame) : TxFrame :=
  { id := f.b0.setWidth 11, extended := false, dlc := 8
    data := [f.b1, f.b2, f.b3, f.b4, f.b5, f.b6, f.b7, f.b8] }

/-- Register word 0 of a Frame, `{B[0], B[1], B[2], B[3]}` (30_encoding.md R104). -/
def frameWord0 (f : Frame) : Word := ((f.b0 ++ f.b1) ++ f.b2) ++ f.b3

/-- Register word 1 of a Frame, `{B[4], B[5], B[6], B[7]}` (30_encoding.md R104). -/
def frameWord1 (f : Frame) : Word := ((f.b4 ++ f.b5) ++ f.b6) ++ f.b7

/-- Register word 2 of a Frame, `{0x000000, B[8]}` (30_encoding.md R104). -/
def frameWord2 (f : Frame) : Word := 0#24 ++ f.b8

/-- A Frame with its word 0 replaced (30_encoding.md R104). -/
def withFrameWord0 (f : Frame) (v : Word) : Frame :=
  { f with b0 := v.extractLsb' 24 8, b1 := v.extractLsb' 16 8
           b2 := v.extractLsb' 8 8, b3 := v.extractLsb' 0 8 }

/-- A Frame with its word 1 replaced (30_encoding.md R104). -/
def withFrameWord1 (f : Frame) (v : Word) : Frame :=
  { f with b4 := v.extractLsb' 24 8, b5 := v.extractLsb' 16 8
           b6 := v.extractLsb' 8 8, b7 := v.extractLsb' 0 8 }

/-- A Frame with its word 2 replaced: the low 8 bits are kept (20_memory.md R66). -/
def withFrameWord2 (f : Frame) (v : Word) : Frame := { f with b8 := v.extractLsb' 0 8 }

/-! The reference speed. -/

/-- `floor((speed_0 + ... + speed_5) / 6)` (42_speed_sync.md R171, R172). -/
def referenceSpeed (p : Six Frame) : BitVec 16 :=
  BitVec.ofNat 16
    (((speedOf p.e0).toNat + (speedOf p.e1).toNat + (speedOf p.e2).toNat + (speedOf p.e3).toNat
      + (speedOf p.e4).toNat + (speedOf p.e5).toNat) / 6)

/-- The default `SPEED_NORM`: `floor((speed / ref) * ref)` in exact rational arithmetic, that is the
quotient of `speed * ref` by `ref` (42_speed_sync.md R174, 00_scope.md R10). -/
def speedNormExact (speed ref : BitVec 16) : BitVec 16 :=
  BitVec.ofNat 16 (speed.toNat * ref.toNat / ref.toNat)

/-- `SPEED_NORM` of a list of departures from the default (00_scope.md R10, log entry 9). -/
def speedNormOf : List SpeedNormEntry → BitVec 16 → BitVec 16 → BitVec 16
  | [], speed, ref => speedNormExact speed ref
  | e :: es, speed, ref =>
    if e.speed = speed ∧ e.ref = ref then e.adjusted else speedNormOf es speed ref

/-! Acknowledgements. -/

/-- The recognised status bytes, 1 and 2 (00_scope.md R8, 30_encoding.md R101). -/
def ackStatusOf (b : Byte) : Option AckStatus :=
  if b = 1 then some .status1 else if b = 2 then some .status2 else none

/-- The status a received frame carries, if its second payload byte exists and is recognised
(30_encoding.md R101, 43_transmit.md R200, R201). -/
def statusOf (f : RxFrame) : Option AckStatus :=
  match f.data with
  | _ :: b :: _ => ackStatusOf b
  | _ => none

end Sys2Proof.Machine
end

