-- ==== Sys2Proof/Machine/Ops.lean ====
section
/-! DEFINITION. The named operations over the state: the one shared refusal (60_exceptions.md R262), the
encoder's update, the normalisation, the packet buffer, the register space's read and write
(20_memory.md R62 to R70), and the reset (70_reset_and_hazards.md R290). -/

namespace Sys2Proof.Machine

/-! Refusals: the block's synchronous exceptions. -/

/-- `raise <Err>`: the flag is set and nothing else changes (60_exceptions.md R262). There is no
transfer of control, nothing is saved, and there is no return (60_exceptions.md R276, R277). -/
def State.raise (s : State) (e : Err) : State := { s with ev := s.ev.withErr e }

/-- The first check of every host write (60_exceptions.md R275): refused while busy, else `t`. -/
def State.unlessBusy (s t : State) : State := if s.busy then s.raise .busy else t

/-- The packet completeness check of SYNC and SEND (60_exceptions.md R266). -/
def State.ifComplete (s t : State) : State := if s.pvalid.allTrue then t else s.raise .pkt

/-! The encoder. -/

/-- The direction of axis `i` is inverted: `INV_EFFECT and INV[a] = 1` (40_position_encode.md R124). -/
def State.inverted (s : State) (i : Index) : Bool := s.inv.getLsbD i.val && s.config.invEffect

/-- `P` of axis `i` (40_position_encode.md R120). -/
def State.positionOf (s : State) (i : Index) : Int := position (s.tgt.get i) (s.gear.get i)

/-- `d` of axis `i` (40_position_encode.md R120, R124). -/
def State.displacementOf (s : State) (i : Index) : Int :=
  displacement (s.positionOf i) (s.init.get i) (s.inverted i)

/-- The Frame ENCF makes for axis `i` (40_position_encode.md R125). -/
def State.encodedFrame (s : State) (i : Index) : Frame :=
  buildFrame (axisId i) s.feed (pack24 (s.displacementOf i))

/-- A slot filled with a Frame and marked valid (10_state.md R31, R32). -/
def State.fillSlot (s : State) (i : Index) (f : Frame) : State :=
  { s with pkt := s.pkt.set i f, pvalid := s.pvalid.set i true }

/-- The body of ENCF for axis `i`: slot, `PVALID` and `LAST` in one step (40_position_encode.md R125,
R126, R127). -/
def State.encodeAxis (s : State) (i : Index) : State :=
  { s.fillSlot i (s.encodedFrame i) with last := s.last.set i (BitVec.ofInt 48 (s.positionOf i)) }

/-- The six encodes of ENCP in one step: each axis reads the state at the step's start and writes its own
slot, `PVALID` bit and `LAST` (40_position_encode.md R128, 00_scope.md R13). -/
def State.encodeAll (s : State) : State :=
  { s with pkt := Six.ofFn s.encodedFrame, pvalid := Six.fill true
           last := Six.ofFn fun i => BitVec.ofInt 48 (s.positionOf i) }

/-! The speed synchroniser. -/

/-- `SPEED_NORM` (00_scope.md R10). -/
def normSpeed (c : Config) (speed ref : BitVec 16) : BitVec 16 := speedNormOf c.speedNorm speed ref

/-- The rewrite of the slots for a reference speed: none when it is 0 (42_speed_sync.md R173, R174); the
checksum bytes stay (R175). -/
def rewriteSpeeds (c : Config) (ref : BitVec 16) (p : Six Frame) : Six Frame :=
  if ref = 0 then p else p.map fun f => withSpeed f (normSpeed c (speedOf f) ref)

/-- `normalize()` (42_speed_sync.md R170 to R175). -/
def State.normalize (s : State) : State :=
  { s with refSpeed := referenceSpeed s.pkt
           pkt := rewriteSpeeds s.config (referenceSpeed s.pkt) s.pkt }

/-! The packet buffer and AxisState. -/

/-- All `PVALID` bits cleared; the slot bytes stay (10_state.md R32, R33). -/
def State.clearValid (s : State) : State := { s with pvalid := Six.fill false }

/-- AxisState brought to its reset value: `LAST` cleared (44_buffer_system.md R240). -/
def State.clearLast (s : State) : State := { s with last := Six.fill 0 }

/-! The register space. -/

/-- `STATUS[2:0]`, the code of the sequencer's state (10_state.md R40). -/
def Fsm.code : Fsm → BitVec 3
  | .idle => 0
  | .sending => 1
  | .awaitingAck => 2
  | .satisfied => 3
  | .timedOut => 4

/-- The two-bit code of a responder's status (10_state.md R42). -/
def AckStatus.code : AckStatus → BitVec 2
  | .noResponse => 0
  | .status1 => 1
  | .status2 => 2

/-- `STATUS[17:12]`: bit `12+s` is `PVALID[s]` (10_state.md R48). -/
def pvalidBits (v : Six Bool) : BitVec 6 :=
  ((((BitVec.ofBool v.e5 ++ BitVec.ofBool v.e4) ++ BitVec.ofBool v.e3) ++ BitVec.ofBool v.e2)
    ++ BitVec.ofBool v.e1) ++ BitVec.ofBool v.e0

/-- `STATUS` (10_state.md R48). -/
def State.statusWord (s : State) : Word :=
  ((((((0#14 ++ pvalidBits s.pvalid) ++ s.ack2.code) ++ s.ack1.code) ++ 0#1)
    ++ BitVec.ofNat 3 s.txIdx.val) ++ BitVec.ofBool s.busy) ++ s.fsm.code

/-- The byte address of a register (10_state.md R47). -/
def regAddr : HostReg → HostAddr
  | .cmd => 0x000
  | .status => 0x004
  | .ev => 0x008
  | .ie => 0x00C
  | .timeout => 0x010
  | .timer => 0x014
  | .feed => 0x018
  | .refSpeed => 0x01C
  | .tgt i => BitVec.ofNat 9 (0x020 + 4 * i.val)
  | .gear i => BitVec.ofNat 9 (0x040 + 4 * i.val)
  | .inv => 0x058
  | .lastLo i => BitVec.ofNat 9 (0x060 + 8 * i.val)
  | .lastHi i => BitVec.ofNat 9 (0x064 + 8 * i.val)
  | .initLo i => BitVec.ofNat 9 (0x090 + 8 * i.val)
  | .initHi i => BitVec.ofNat 9 (0x094 + 8 * i.val)
  | .fin0 => 0x0C0
  | .fin1 => 0x0C4
  | .fin2 => 0x0C8
  | .pktw0 i => BitVec.ofNat 9 (0x100 + 16 * i.val)
  | .pktw1 i => BitVec.ofNat 9 (0x104 + 16 * i.val)
  | .pktw2 i => BitVec.ofNat 9 (0x108 + 16 * i.val)

/-- The six registers of an indexed name, in index order. -/
def sixRegs (r : Index → HostReg) : List HostReg := [r 0, r 1, r 2, r 3, r 4, r 5]

/-- Every register of the table of 10_state.md R47, in the table's order. -/
def hostRegs : List HostReg :=
  [.cmd, .status, .ev, .ie, .timeout, .timer, .feed, .refSpeed]
    ++ sixRegs .tgt ++ sixRegs .gear ++ [.inv]
    ++ sixRegs .lastLo ++ sixRegs .lastHi ++ sixRegs .initLo ++ sixRegs .initHi
    ++ [.fin0, .fin1, .fin2]
    ++ sixRegs .pktw0 ++ sixRegs .pktw1 ++ sixRegs .pktw2

/-- The register at a byte address; none at a reserved address (10_state.md R47, 20_memory.md R70). -/
def regAt (a : HostAddr) : Option HostReg := hostRegs.find? fun r => regAddr r == a

/-- `sext_32` of the high part of a 48-bit position (10_state.md R47, 44_buffer_system.md R251). -/
def highWord (p : BitVec 48) : Word := (p.extractLsb' 32 16).signExtend 32

/-- The low part of a 48-bit position (10_state.md R47). -/
def lowWord (p : BitVec 48) : Word := p.extractLsb' 0 32

/-- The value of a register, zero-extended to 32 bits (10_state.md R47, 44_buffer_system.md R251). -/
def State.regRead (s : State) : HostReg → Word
  | .cmd => 0
  | .status => s.statusWord
  | .ev => s.ev.toWord
  | .ie => s.ie.toWord
  | .timeout => s.timeout.setWidth 32
  | .timer => s.timer
  | .feed => s.feed.setWidth 32
  | .refSpeed => s.refSpeed.setWidth 32
  | .tgt i => s.tgt.get i
  | .gear i => (s.gear.get i).setWidth 32
  | .inv => s.inv.setWidth 32
  | .lastLo i => lowWord (s.last.get i)
  | .lastHi i => highWord (s.last.get i)
  | .initLo i => lowWord (s.init.get i)
  | .initHi i => highWord (s.init.get i)
  | .fin0 => frameWord0 s.fin
  | .fin1 => frameWord1 s.fin
  | .fin2 => frameWord2 s.fin
  | .pktw0 i => frameWord0 (s.pkt.get i)
  | .pktw1 i => frameWord1 (s.pkt.get i)
  | .pktw2 i => frameWord2 (s.pkt.get i)

/-- `MemRead(addr, 4)`: a reserved address reads as 0 (20_memory.md R62, R70). -/
def State.memRead (s : State) (a : HostAddr) : Word :=
  match regAt a with
  | some r => s.regRead r
  | none => 0

/-- The accepted write to a register other than `CMD`: a plain register keeps the low bits, `EV` is
write-one-to-clear, a read-only register ignores the write (20_memory.md R66, R68, R69). -/
def State.regWrite (s : State) (r : HostReg) (v : Word) : State :=
  match r with
  | .cmd => s
  | .status => s
  | .ev => { s with ev := s.ev.clearBy (EventFlags.ofWord v) }
  | .ie => { s with ie := EventFlags.ofWord v }
  | .timeout => { s with timeout := v.setWidth 31 }
  | .timer => s
  | .feed => { s with feed := v.setWidth 16 }
  | .refSpeed => s
  | .tgt i => { s with tgt := s.tgt.set i v }
  | .gear i => { s with gear := s.gear.set i (v.setWidth 16) }
  | .inv => { s with inv := v.setWidth 6 }
  | .lastLo _ => s
  | .lastHi _ => s
  | .initLo _ => s
  | .initHi _ => s
  | .fin0 => { s with fin := withFrameWord0 s.fin v }
  | .fin1 => { s with fin := withFrameWord1 s.fin v }
  | .fin2 => { s with fin := withFrameWord2 s.fin v }
  | .pktw0 _ => s
  | .pktw1 _ => s
  | .pktw2 _ => s

/-! Reset. -/

/-- `RST`: every state element of the block to its reset value, whatever was in progress; what is
outside the block stays: the parameters, the agents' coming steps, the frames already handed over, the
values already read (70_reset_and_hazards.md R290, R292, R293; log entry 16). -/
def State.hardwareReset (s : State) : State :=
  { State.reset with
      config := s.config, schedule := s.schedule, emitted := s.emitted, hostReads := s.hostReads }

end Sys2Proof.Machine
end

