-- ==== Sys2Proof/Machine/Buffer.lean ====
section
/-! DEFINITION. The buffer and system family: LDF, PCLR, AXRST, NOP (44_buffer_system.md). -/

namespace Sys2Proof.Machine

/-- `LDF s` (44_buffer_system.md R230): busy, then operand range, then the load, which checks no byte
(R231). -/
def execLdf (a : Byte) (s : State) : Host.Outcome State Fault Refusal :=
  .next (s.unlessBusy
    (match slotOperand a with
     | none => s.raise .arg
     | some i => s.fillSlot i s.fin))

/-- `PCLR` (44_buffer_system.md R235). -/
def execPclr (s : State) : Host.Outcome State Fault Refusal :=
  .next (s.unlessBusy s.clearValid)

/-- `AXRST` (44_buffer_system.md R240). -/
def execAxrst (s : State) : Host.Outcome State Fault Refusal :=
  .next (s.unlessBusy s.clearLast)

/-- `NOP` (44_buffer_system.md R245). -/
def execNop (s : State) : Host.Outcome State Fault Refusal :=
  .next (s.unlessBusy s)

end Sys2Proof.Machine
end

