-- ==== Sys2Proof/Machine/Encode.lean ====
section
/-! DEFINITION. The encode family: ENCF and ENCP (40_position_encode.md). -/

namespace Sys2Proof.Machine

/-- `ENCF a` (40_position_encode.md R127): busy, then operand range, then the encode. -/
def execEncf (a : Byte) (s : State) : Host.Outcome State Fault Refusal :=
  .next (s.unlessBusy
    (match axisOperand a with
     | none => s.raise .arg
     | some i => s.encodeAxis i))

/-- `ENCP` (40_position_encode.md R128). -/
def execEncp (s : State) : Host.Outcome State Fault Refusal :=
  .next (s.unlessBusy s.encodeAll)

end Sys2Proof.Machine
end

