-- ==== Sys2Proof/Machine/SpeedSync.lean ====
section
/-! DEFINITION. The speed synchroniser family: SYNC (42_speed_sync.md). -/

namespace Sys2Proof.Machine

/-- `SYNC` (42_speed_sync.md R176): busy, then completeness, then `normalize()`. -/
def execSync (s : State) : Host.Outcome State Fault Refusal :=
  .next (s.unlessBusy (s.ifComplete s.normalize))

end Sys2Proof.Machine
end

