-- ==== Sys2Proof/Machine/Transmit.lean ====
section
/-! DEFINITION. The transmit family: SEND, the transmission of a Frame, and the sequencer's steps TXACC,
RX and TICK (43_transmit.md). -/

namespace Sys2Proof.Machine

/-! SEND. -/

/-- The packet's state machine started: `PVALID` cleared, `ACK` to `NONE`, `TXIDX` and `TIMER` to 0,
`FSM` to `SENDING` (43_transmit.md R186). -/
def State.startPacket (s : State) : State :=
  { s with pvalid := Six.fill false, ack1 := .noResponse, ack2 := .noResponse
           txIdx := 0, timer := 0, fsm := .sending }

/-- `SEND` (43_transmit.md R186): busy (the packet barrier, R211), then completeness, then
`normalize()` and the start. -/
def execSend (s : State) : Host.Outcome State Fault Refusal :=
  .next (s.unlessBusy (s.ifComplete s.normalize.startPacket))

/-! TXACC. -/

/-- The slot whose Frame the block presents: `TXIDX` while `SENDING`, none otherwise (10_state.md R53;
`TXIDX` is 0..5 whenever `FSM = SENDING`, and at an unreachable 6 none is presented: log entry 11). -/
def State.presentedSlot (s : State) : Option Index :=
  if s.fsm = .sending then slotOf s.txIdx else none

/-- The bus frame on the transmit port (10_state.md R53, 30_encoding.md R100). -/
def State.presented (s : State) : Option TxFrame :=
  s.presentedSlot.map fun i => marshal (s.pkt.get i)

/-- The Frame `f` of slot `i` handed over: emitted, `TXIDX` advanced, and after slot 5 the wait for the
acknowledgements entered with `TIMER` at 0 (43_transmit.md R195). -/
def State.transmit (s : State) (i : Index) (f : Frame) : State :=
  let t := { s with emitted := s.emitted ++ [marshal f], txIdx := i.succ }
  if i.val = 5 then { t with fsm := .awaitingAck, timer := 0 } else t

/-- `TXACC` (43_transmit.md R195). -/
def State.txAcc (s : State) : State :=
  match s.presentedSlot with
  | some i => s.transmit i (s.pkt.get i)
  | none => s

/-- `FRAME`: the sequencer transmits this Frame (30_encoding.md R95, R100; 43_transmit.md R195; log
entry 5). While no Frame is presented nothing is transmitted (log entry 24). -/
def execFrame (axis : Byte) (speed : BitVec 16) (disp : BitVec 24) (checksum : Byte) (s : State) :
    Host.Outcome State Fault Refusal :=
  .next (match s.presentedSlot with
    | some i => s.transmit i (frameBytes axis speed disp checksum)
    | none => s)

/-! RX. -/

/-- Both expected responders' latest status is 2 (43_transmit.md R200). -/
def State.bothDone (s : State) : Bool := s.ack1 == .status2 && s.ack2 == .status2

/-- Entry to `SATISFIED` when both are done (43_transmit.md R200, R202). -/
def State.resolve (s : State) : State :=
  if s.bothDone then { s with fsm := .satisfied, ev := { s.ev with sat := true } } else s

/-- A recognised status recorded for the expected responders 1 and 2; the compare is on the whole 11-bit
id, and any other id leaves no trace (43_transmit.md R200, R201, R215). -/
def State.recordAck (s : State) (id : BitVec 11) (st : AckStatus) : State :=
  if id = 1 then State.resolve { s with ack1 := st }
  else if id = 2 then State.resolve { s with ack2 := st }
  else s

/-- `RX` (43_transmit.md R200): taken only while awaiting. -/
def State.receive (s : State) (f : RxFrame) : State :=
  if s.fsm = .awaitingAck then
    match statusOf f with
    | some st => s.recordAck f.id st
    | none => s
  else s

/-! TICK. -/

/-- `TICK` (43_transmit.md R205). -/
def State.tick (s : State) : State :=
  if s.fsm = .awaitingAck then
    let t := { s with timer := s.timer + 1 }
    if s.timer.toNat + 1 > s.timeout.toNat then
      { t with fsm := .timedOut, ev := { s.ev with timedOut := true } }
    else t
  else s

end Sys2Proof.Machine
end

