-- ==== Sys2Proof/Machine/Dispatch.lean ====
section
/-! DEFINITION. One arm for each constructor of Instr: the meaning of each instruction. -/

namespace Sys2Proof.Machine

def exec (i : Instr) (s : State) : Host.Outcome State Fault Refusal :=
  match i with
  | .nop => Sys2Proof.Machine.execNop s
  | .encf a => Sys2Proof.Machine.execEncf a s
  | .encp => Sys2Proof.Machine.execEncp s
  | .ldf a => Sys2Proof.Machine.execLdf a s
  | .sync => Sys2Proof.Machine.execSync s
  | .send => Sys2Proof.Machine.execSend s
  | .axrst => Sys2Proof.Machine.execAxrst s
  | .pclr => Sys2Proof.Machine.execPclr s
  | .frame axis speed disp checksum => Sys2Proof.Machine.execFrame axis speed disp checksum s

end Sys2Proof.Machine
end

