-- ==== Sys2Proof/Machine/HostAccess.lean ====
section
/-! DEFINITION. The host's two accesses, `WR` and `RD` (20_memory.md R62 to R72; 44_buffer_system.md R248,
R250, R251), and the script notation's pseudo-operations (30_encoding.md R105, R106). -/

namespace Sys2Proof.Machine

/-- A command word written to `CMD` while not busy: the whole command in the same step, or `ERR_OP` for
a reserved word (20_memory.md R72, 44_buffer_system.md R248). -/
def State.command (s : State) (w : Word) : Host.Outcome State Fault Refusal :=
  match decodeCommand w with
  | .ok i => exec i s
  | .error _ => .next (s.raise .op)

/-- `MemWrite(addr, 4, v)`, decided in the order of 20_memory.md R63: busy, reserved or read-only,
`CMD`, `EV`, plain register. -/
def State.memWrite (s : State) (a : HostAddr) (v : Word) : Host.Outcome State Fault Refusal :=
  if s.busy then .next (s.raise .busy)
  else
    match regAt a with
    | none => .next s
    | some .cmd => s.command v
    | some r => .next (s.regWrite r v)

/-- A host address is a multiple of 4 (20_memory.md R61, R65). -/
def aligned (a : HostAddr) : Bool := a.extractLsb' 0 2 == 0

/-- `WR addr, v` (44_buffer_system.md R250); an address that is not aligned has no meaning
(20_memory.md R65, log entry 14). -/
def State.hostWrite (s : State) (a : HostAddr) (v : Word) : Host.Outcome State Fault Refusal :=
  if aligned a then s.memWrite a v else .refused (.unalignedHostAccess a)

/-- `RD addr` (44_buffer_system.md R251): the value is handed to the host and nothing of the block
changes (20_memory.md R62). -/
def State.hostRead (s : State) (a : HostAddr) : Host.Outcome State Fault Refusal :=
  if aligned a then .next { s with hostReads := s.hostReads ++ [s.memRead a] }
  else .refused (.unalignedHostAccess a)

/-! The script notation. -/

/-- `WR <REG>, <value>` (30_encoding.md R105). -/
def writeReg (r : HostReg) (v : Word) : Event := .wr (regAddr r) v

/-- `RD <REG>` (30_encoding.md R105). -/
def readReg (r : HostReg) : Event := .rd (regAddr r)

/-- A command line of the script: `WR CMD, <word>` (30_encoding.md R105). A Frame is no command; its
line is the step that transmits it (log entry 5). -/
def commandEvent (i : Instr) : Event :=
  match encode i with
  | .command w => writeReg .cmd w
  | .frame _ => .txacc

/-- `WRFRAME <18 hex>` (30_encoding.md R106). -/
def wrFrame (f : Frame) : List Event :=
  [writeReg .fin0 (frameWord0 f), writeReg .fin1 (frameWord1 f), writeReg .fin2 (frameWord2 f)]

/-- One line of `LOADPKT`: `WRFRAME f` and `LDF s` (30_encoding.md R106). -/
def loadSlot (i : Index) (f : Frame) : List Event :=
  wrFrame f ++ [commandEvent (.ldf (BitVec.ofNat 8 i.val))]

/-- `LOADPKT f0 f1 f2 f3 f4 f5` (30_encoding.md R106). -/
def loadPkt (p : Six Frame) : List Event :=
  loadSlot 0 p.e0 ++ loadSlot 1 p.e1 ++ loadSlot 2 p.e2 ++ loadSlot 3 p.e3 ++ loadSlot 4 p.e4
    ++ loadSlot 5 p.e5

/-- `MOVE f, t1, ..., t6`: feed rate, targets already on the Q16.16 grid, `ENCP` (30_encoding.md R102,
R106; 41_command_parser_context.md R156). -/
def move (feed : BitVec 16) (t : Six Word) : List Event :=
  [writeReg .feed (feed.setWidth 32)]
    ++ [writeReg (.tgt 0) t.e0, writeReg (.tgt 1) t.e1, writeReg (.tgt 2) t.e2,
        writeReg (.tgt 3) t.e3, writeReg (.tgt 4) t.e4, writeReg (.tgt 5) t.e5]
    ++ [commandEvent .encp]

end Sys2Proof.Machine
end

