-- ==== Sys2Proof/Machine/Agents.lean ====
section
/-! DEFINITION. The agents' steps and when each is enabled (00_scope.md R7), the choice of the next one
(log entries 1, 2, 3), and the order of steps that fall in one clock cycle (60_exceptions.md R275). -/

namespace Sys2Proof.Machine

/-- When an agent's step is enabled (00_scope.md R7). -/
def State.enabled (s : State) : Event → Bool
  | .wr _ _ => true
  | .rd _ => true
  | .txacc => s.presentedSlot.isSome
  | .rx _ => decide (s.fsm = .awaitingAck)
  | .tick => true
  | .rst => true

/-- One step of one agent. -/
def State.perform (s : State) : Event → Host.Outcome State Fault Refusal
  | .wr a v => s.hostWrite a v
  | .rd a => s.hostRead a
  | .txacc => .next s.txAcc
  | .rx f => .next (s.receive f)
  | .tick => .next s.tick
  | .rst => .next s.hardwareReset

/-- The first enabled step of a schedule, and the schedule without it: a step that is not enabled does
not exist now and stays where it is (a received frame stays with the adapter: 10_state.md R52,
43_transmit.md R207; log entry 2). -/
def State.firstEnabled (s : State) : List Event → Option (Event × List Event)
  | [] => none
  | e :: es =>
    if s.enabled e then some (e, es)
    else (s.firstEnabled es).map fun p => (p.1, e :: p.2)

/-- What happens in one clock cycle, as a piece of schedule: `TXACC` or `RX`, each only if the port's
handshake completes at the start of the cycle, then `TICK`, then the host access; `RST` overrides
everything (60_exceptions.md R275, 10_state.md R55; log entry 21). -/
def State.cycleEvents (s : State) (txReady : Bool) (rx : Option RxFrame) (tick : Bool)
    (host : Option Event) (rst : Bool) : List Event :=
  if rst then [.rst]
  else
    (if txReady && s.enabled .txacc then [.txacc] else [])
      ++ (match rx with
          | some f => if s.enabled (.rx f) then [.rx f] else []
          | none => [])
      ++ (if tick then [.tick] else [])
      ++ host.toList

/-- The fetch of a row's code: a command word is the data of the next `WR` to `CMD` (20_memory.md R72,
R75); a Frame stands in the slot the sequencer presents, with the sequencer sending and TXSINK ready
(10_state.md R21, R53; log entries 4, 5). -/
def State.placeCode (s : State) : Code → State
  | .command w => { s with schedule := writeReg .cmd w :: s.schedule }
  | .frame w =>
    let i : Index := (slotOf s.txIdx).getD 0
    { s with fsm := .sending, txIdx := i.castSucc, pkt := s.pkt.set i (Frame.ofBits w)
             schedule := .txacc :: s.schedule }

end Sys2Proof.Machine
end

