-- ==== Sys2Proof/Machine/Step.lean ====
section
/-! DEFINITION. One step of the machine: the first enabled step of the schedule is taken, alone and whole
(00_scope.md R6, 20_memory.md R76); when no agent takes a step nothing changes (log entry 3). -/

namespace Sys2Proof.Machine

/-- The step. -/
def step (s : State) : Host.Outcome State Fault Refusal :=
  match s.firstEnabled s.schedule with
  | none => .next s
  | some (e, rest) => State.perform { s with schedule := rest } e

/-- The state with a row's code placed where the next step takes it (log entry 4). -/
def State.withFetchWord (s : State) (nbits w : Nat) : State := s.placeCode (Code.ofTable nbits w)

end Sys2Proof.Machine
end

