-- ==== Sys2Proof/Safety.lean ====
section
/-! DEFINITION. What the claims call a good state and a safe run: the invariant of the block's state
(10_state.md R28, R32, R40 to R43; 60_exceptions.md R276), the well-formedness of a schedule
(20_memory.md R65), and the packet barrier's record of the frames handed over (43_transmit.md R195,
R211). -/

namespace Sys2Proof.Machine

/-- `TXIDX` as its sequencer state has it: 0 from reset on, 0..5 while sending, 6 from the last `TXACC`
of a packet on (10_state.md R41, 43_transmit.md R195). -/
def State.txIdxOk (s : State) : Prop :=
  match s.fsm with
  | .idle => s.txIdx.val = 0
  | .sending => s.txIdx.val < 6
  | .awaitingAck => s.txIdx.val = 6
  | .satisfied => s.txIdx.val = 6
  | .timedOut => s.txIdx.val = 6

/-- `ACK` as its sequencer state has it: `NONE` before a packet awaits, not both 2 while it awaits, both
2 exactly when it was satisfied (43_transmit.md R186, R200, R202, R206). -/
def State.ackOk (s : State) : Prop :=
  match s.fsm with
  | .idle => s.ack1 = .noResponse ∧ s.ack2 = .noResponse
  | .sending => s.ack1 = .noResponse ∧ s.ack2 = .noResponse
  | .awaitingAck => s.bothDone = false
  | .satisfied => s.bothDone = true
  | .timedOut => s.bothDone = false

/-- `TIMER` as its sequencer state has it: 0 before a packet awaits, not above `TIMEOUT` while it
awaits, at most `2^31 - 1` when satisfied, from 1 to `2^31` when timed out (10_state.md R43, 43_transmit.md
R202, R205, R206; log entry 19). -/
def State.timerOk (s : State) : Prop :=
  match s.fsm with
  | .idle => s.timer.toNat = 0
  | .sending => s.timer.toNat = 0
  | .awaitingAck => s.timer.toNat ≤ s.timeout.toNat
  | .satisfied => s.timer.toNat < 2 ^ 31
  | .timedOut => 1 ≤ s.timer.toNat ∧ s.timer.toNat ≤ 2 ^ 31

/-- The invariant: `INIT` is 0 (10_state.md R28), no slot is valid while a packet is in progress
(43_transmit.md R186, 20_memory.md R71), and `TXIDX`, `ACK` and `TIMER` agree with `FSM`. -/
def State.Inv (s : State) : Prop :=
  s.init = Six.fill 0 ∧ (s.busy = true → s.pvalid = Six.fill false) ∧
    s.txIdxOk ∧ s.ackOk ∧ s.timerOk

/-- Every host access of a schedule is aligned: a well-formed script (20_memory.md R65). -/
def wellFormedSchedule (es : List Event) : Prop :=
  ∀ e ∈ es, match e with
    | .wr a _ => aligned a = true
    | .rd a => aligned a = true
    | _ => True

/-- The bus frames of a packet, in slot order (30_encoding.md R100, 43_transmit.md R195). -/
def packetFrames (p : Six Frame) : List TxFrame := p.toList.map marshal

/-- The frames on the transmit channel are `before` followed by the frames of this packet handed over so
far: the first `TXIDX` of its slots (43_transmit.md R195, R211). -/
def State.sentSince (s : State) (before : List TxFrame) : Prop :=
  s.emitted = before ++ (packetFrames s.pkt).take s.txIdx.val

/-! The words of the claims: the spec's own arithmetic, over integers. -/

/-- 1 for a set bit, 0 for a clear one. -/
def bitNumber (b : Bool) : Nat := if b then 1 else 0

/-- The value of `FSM` (10_state.md R40). -/
def fsmNumber : Fsm → Nat
  | .idle => 0
  | .sending => 1
  | .awaitingAck => 2
  | .satisfied => 3
  | .timedOut => 4

/-- The value of an `ACK` field (10_state.md R42). -/
def ackNumber : AckStatus → Nat
  | .noResponse => 0
  | .status1 => 1
  | .status2 => 2

/-- The number a set of event flags is read as (10_state.md R45). -/
def flagsNumber (f : EventFlags) : Nat :=
  bitNumber f.sat + 2 * bitNumber f.timedOut + 2 ^ 8 * bitNumber f.errBusy
    + 2 ^ 9 * bitNumber f.errPkt + 2 ^ 10 * bitNumber f.errArg + 2 ^ 11 * bitNumber f.errOp

/-- `256*B[2] + B[3]` (30_encoding.md R96). -/
def speedNumber (f : Frame) : Nat := 256 * f.b2.toNat + f.b3.toNat

/-- `D = 65536*B[5] + 256*B[6] + B[7]` (30_encoding.md R97). -/
def fieldNumber (f : Frame) : Nat := 65536 * f.b5.toNat + 256 * f.b6.toNat + f.b7.toNat

/-- The displacement field unpacked as signed: `D - 2^24` when `D ≥ 2^23`, else `D` (30_encoding.md R97). -/
def signedField (f : Frame) : Int :=
  if 2 ^ 23 ≤ fieldNumber f then (fieldNumber f : Int) - 2 ^ 24 else fieldNumber f

/-- `B[0] + ... + B[7]` without reduction (30_encoding.md R98). -/
def byteTotal (f : Frame) : Nat :=
  f.b0.toNat + f.b1.toNat + f.b2.toNat + f.b3.toNat + f.b4.toNat + f.b5.toNat + f.b6.toNat + f.b7.toNat

/-- The sum of the six speeds (42_speed_sync.md R172). -/
def speedTotal (p : Six Frame) : Nat :=
  speedNumber p.e0 + speedNumber p.e1 + speedNumber p.e2 + speedNumber p.e3 + speedNumber p.e4
    + speedNumber p.e5

/-- `P` of axis `i` (40_position_encode.md R120). -/
def specPosition (s : State) (i : Index) : Int := (s.tgt.get i).toInt * ((s.gear.get i).toNat : Int)

/-- `d` of axis `i`, with the two cases of truncation toward zero written out and the inversion of
40_position_encode.md R124 (40_position_encode.md R120, R121). -/
def specDisplacement (s : State) (i : Index) : Int :=
  let n := (specPosition s i - (s.init.get i).toInt) * 100
  let d := if 0 ≤ n then n / 2 ^ 24 else -((-n) / 2 ^ 24)
  if s.config.invEffect = true ∧ s.inv.getLsbD i.val = true then -d else d

/-- `f` is the Frame and `p` the position that encoding axis `i` in state `s` makes
(40_position_encode.md R120 to R126). -/
def encodesAxis (s : State) (i : Index) (f : Frame) (p : BitVec 48) : Prop :=
  p.toInt = specPosition s i ∧
    f.b0.toNat = i.val + 1 ∧ f.b1 = 0xF5 ∧ speedNumber f = s.feed.toNat ∧ f.b4 = 0x02 ∧
    (fieldNumber f : Int) = specDisplacement s i % 2 ^ 24 ∧ f.b8.toNat = byteTotal f % 256

/-- The bits a plain read-write register keeps of a write; none for every other register
(20_memory.md R66). -/
def keptBits : HostReg → Option Word
  | .ie => some 0x00000F03
  | .timeout => some 0x7FFFFFFF
  | .feed => some 0x0000FFFF
  | .tgt _ => some 0xFFFFFFFF
  | .gear _ => some 0x0000FFFF
  | .inv => some 0x0000003F
  | .fin0 => some 0xFFFFFFFF
  | .fin1 => some 0xFFFFFFFF
  | .fin2 => some 0x000000FF
  | _ => none

/-- The read-only registers (20_memory.md R69). -/
def readOnly : HostReg → Bool
  | .status => true
  | .timer => true
  | .refSpeed => true
  | .lastLo _ => true
  | .lastHi _ => true
  | .initLo _ => true
  | .initHi _ => true
  | .pktw0 _ => true
  | .pktw1 _ => true
  | .pktw2 _ => true
  | _ => false

/-- A received frame that counts: a second payload byte 1 or 2 from id 1 or 2 (43_transmit.md R200). -/
def accepted (f : RxFrame) : Prop :=
  2 ≤ f.dlc ∧ (f.id = 1 ∨ f.id = 2) ∧ (f.data[1]? = some 1 ∨ f.data[1]? = some 2)

/-- The status the block holds for responder `id` after the steps `es`, when it held `k` before: the byte
of the last accepted frame of that id (43_transmit.md R200, R201). -/
def latestStatus (id : BitVec 11) : Nat → List Event → Nat
  | k, [] => k
  | k, .rx f :: es =>
    latestStatus id
      (if f.id = id ∧ f.data[1]? = some 1 then 1
        else if f.id = id ∧ f.data[1]? = some 2 then 2 else k) es
  | k, _ :: es => latestStatus id k es

/-- The expected responder `silent` has not answered and the steps `es` are ticks and frames of other
ids (43_transmit.md R214). -/
def State.staysSilent (s : State) (silent : BitVec 11) (es : List Event) : Prop :=
  ((silent = 1 ∧ s.ack1 = .noResponse) ∨ (silent = 2 ∧ s.ack2 = .noResponse)) ∧
    ∀ e ∈ es, e = .tick ∨ ∃ f, e = .rx f ∧ f.id ≠ silent

/-- The frame carries status 2 from one expected responder, and the other's latest status is 2
(43_transmit.md R200). -/
def State.completesThePair (s : State) (f : RxFrame) : Prop :=
  f.data[1]? = some 2 ∧ ((f.id = 1 ∧ s.ack2 = .status2) ∨ (f.id = 2 ∧ s.ack1 = .status2))

/-- The six flags of a set, lowest bit first (10_state.md R45). -/
def flagList (f : EventFlags) : List Bool :=
  [f.sat, f.timedOut, f.errBusy, f.errPkt, f.errArg, f.errOp]

/-- The step `step s` takes: the first enabled one of the schedule, if any (log entry 1). -/
def State.nextEvent (s : State) : Option Event := (s.firstEnabled s.schedule).map Prod.fst

end Sys2Proof.Machine
end

