-- ==== Sys2Proof/Certificates/Slice0/Obligations.lean ====
section
/-! DEFINITION. The statements for the provers, file by file of the spec's rules. A command's own
statement is about `exec`; a step of another agent is stated through `step` with that step first in the
schedule. `StepRunsTheDecodedCommand`, `StepTransmitsThePresentedFrame` and
`StepTakesTheFirstEnabledEvent` carry the first kind, and the statements about `hostWrite`, to a run. -/

open Sys2Proof Sys2Proof.Machine

/-! Encodings (30_encoding.md). -/

/-- A few words of 30_encoding.md R91 and the Frame of 30_encoding.md R103, bit by bit. -/
def Obligations.SampleWordsDecode : Prop :=
  decodeCommand 0x00000000 = .ok .nop ∧ decodeCommand 0x00000601 = .ok (.encf 6) ∧
  decodeCommand 0x00000002 = .ok .encp ∧ decodeCommand 0x00000503 = .ok (.ldf 5) ∧
  decodeCommand 0x00000004 = .ok .sync ∧ decodeCommand 0x00000005 = .ok .send ∧
  decodeCommand 0x00000006 = .ok .axrst ∧ decodeCommand 0x00000007 = .ok .pclr ∧
  decode (.frame 0x01F503E8020034BCD3) = .ok (.frame 0x01 0x03E8 0x0034BC 0xD3) ∧
  decodeCommand 0x00000105 = .error .operandNotZero ∧
  decodeCommand 0x00010701 = .error .zeroFieldNotZero ∧
  decodeCommand 0x00000008 = .error .reservedOpcode

/-- 30_encoding.md R91: a word is a command exactly when `(w and mask) = match` for its row, and the
operand is bits 15:8. -/
def Obligations.CommandDecodeFollowsMaskAndMatch : Prop :=
  ∀ w : Word,
    (decodeCommand w = .ok .nop ↔ w &&& 0xFFFFFFFF = 0x00000000) ∧
    (∀ a : Byte, decodeCommand w = .ok (.encf a) ↔
      w &&& 0xFFFF00FF = 0x00000001 ∧ a.toNat = w.toNat / 256 % 256) ∧
    (decodeCommand w = .ok .encp ↔ w &&& 0xFFFFFFFF = 0x00000002) ∧
    (∀ a : Byte, decodeCommand w = .ok (.ldf a) ↔
      w &&& 0xFFFF00FF = 0x00000003 ∧ a.toNat = w.toNat / 256 % 256) ∧
    (decodeCommand w = .ok .sync ↔ w &&& 0xFFFFFFFF = 0x00000004) ∧
    (decodeCommand w = .ok .send ↔ w &&& 0xFFFFFFFF = 0x00000005) ∧
    (decodeCommand w = .ok .axrst ↔ w &&& 0xFFFFFFFF = 0x00000006) ∧
    (decodeCommand w = .ok .pclr ↔ w &&& 0xFFFFFFFF = 0x00000007)

/-- 30_encoding.md R92: exactly these words are reserved, and writing one to `CMD` while not busy sets
`ERR_OP` and nothing else. -/
def Obligations.ReservedWordsSetOnlyErrOp : Prop :=
  ∀ w : Word,
    ((∃ e, decodeCommand w = .error e) ↔
      (w.toNat / 65536 ≠ 0 ∨ 8 ≤ w.toNat % 256 ∨
        (w.toNat % 256 ∈ [0, 2, 4, 5, 6, 7] ∧ w.toNat / 256 % 256 ≠ 0))) ∧
    ∀ (s : State) (e : DecodeError), s.busy = false → decodeCommand w = .error e →
      s.hostWrite 0x000 w = .next { s with ev := { s.ev with errOp := true } }

/-- Decoding the code of any instruction gives it back, with every operand at every value
(30_encoding.md R90, R91, R95). -/
def Obligations.DecodeOfEncode : Prop := ∀ i : Instr, decode (encode i) = .ok i

/-- Each code has one meaning: what decodes to an instruction is that instruction's code
(30_encoding.md R90, R91, R95). -/
def Obligations.EncodeOfDecode : Prop :=
  ∀ (c : Code) (i : Instr), decode c = .ok i → encode i = c

/-- The nine bytes of a Frame and its 72-bit pattern agree, and the pattern decodes to a FRAME exactly
when the bytes have the layout of 30_encoding.md R95 (log entries 6, 7). -/
def Obligations.FrameBitsDecodeToTheirBytes : Prop :=
  ∀ f : Frame, Frame.ofBits f.toBits = f ∧
    ∀ axis speed disp checksum,
      decode (.frame f.toBits) = .ok (.frame axis speed disp checksum) ↔
        f = frameBytes axis speed disp checksum

/-! The register space (10_state.md, 20_memory.md). -/

/-- 10_state.md R47: each register has its address in the table and each address at most one register;
the word read at each of the addresses no other statement reads is the named field, zero-extended
(44_buffer_system.md R251). `STATUS`, `EV`, `IE`, `FIN`, the slots, `LAST` and `INIT` are read by the four
statements that follow. -/
def Obligations.RegisterMapIsOneToOne : Prop :=
  (∀ (a : HostAddr) (r : HostReg), regAt a = some r ↔ regAddr r = a) ∧
  (regAddr .cmd = 0x000 ∧ regAddr .status = 0x004 ∧ regAddr .ev = 0x008 ∧ regAddr .ie = 0x00C ∧
    regAddr .timeout = 0x010 ∧ regAddr .timer = 0x014 ∧ regAddr .feed = 0x018 ∧
    regAddr .refSpeed = 0x01C ∧ regAddr .inv = 0x058 ∧ regAddr .fin0 = 0x0C0 ∧
    regAddr .fin1 = 0x0C4 ∧ regAddr .fin2 = 0x0C8) ∧
  (∀ i : Index,
    (regAddr (.tgt i)).toNat = 0x020 + 4 * i.val ∧ (regAddr (.gear i)).toNat = 0x040 + 4 * i.val ∧
    (regAddr (.lastLo i)).toNat = 0x060 + 8 * i.val ∧
    (regAddr (.lastHi i)).toNat = 0x064 + 8 * i.val ∧
    (regAddr (.initLo i)).toNat = 0x090 + 8 * i.val ∧
    (regAddr (.initHi i)).toNat = 0x094 + 8 * i.val ∧
    (regAddr (.pktw0 i)).toNat = 0x100 + 16 * i.val ∧
    (regAddr (.pktw1 i)).toNat = 0x104 + 16 * i.val ∧
    (regAddr (.pktw2 i)).toNat = 0x108 + 16 * i.val) ∧
  ∀ s : State,
    (s.memRead 0x000).toNat = 0 ∧ (s.memRead 0x010).toNat = s.timeout.toNat ∧
    (s.memRead 0x014).toNat = s.timer.toNat ∧ (s.memRead 0x018).toNat = s.feed.toNat ∧
    (s.memRead 0x01C).toNat = s.refSpeed.toNat ∧ (s.memRead 0x058).toNat = s.inv.toNat ∧
    ∀ i : Index,
      (s.memRead (BitVec.ofNat 9 (0x020 + 4 * i.val))).toNat = (s.tgt.get i).toNat ∧
      (s.memRead (BitVec.ofNat 9 (0x040 + 4 * i.val))).toNat = (s.gear.get i).toNat

/-- 10_state.md R48, with the codes of R40 and R42: every field of `STATUS`. -/
def Obligations.StatusWordShowsTheSequencer : Prop :=
  ∀ s : State, (s.memRead 0x004).toNat =
    fsmNumber s.fsm + 8 * bitNumber (decide (s.fsm = .sending ∨ s.fsm = .awaitingAck))
      + 16 * s.txIdx.val + 256 * ackNumber s.ack1 + 1024 * ackNumber s.ack2
      + 4096 * (bitNumber (s.pvalid.get 0) + 2 * bitNumber (s.pvalid.get 1)
          + 4 * bitNumber (s.pvalid.get 2) + 8 * bitNumber (s.pvalid.get 3)
          + 16 * bitNumber (s.pvalid.get 4) + 32 * bitNumber (s.pvalid.get 5))

/-- 10_state.md R45, R46: `EV` and `IE` read as their flags at bits 0, 1, 8, 9, 10, 11. -/
def Obligations.EventWordsShowTheFlags : Prop :=
  ∀ s : State, (s.memRead 0x008).toNat = flagsNumber s.ev ∧ (s.memRead 0x00C).toNat = flagsNumber s.ie

/-- 30_encoding.md R104: a Frame, in `FIN` or in a slot, reads as three words. -/
def Obligations.FramesReadAsThreeWords : Prop :=
  ∀ s : State,
    (∀ f, f = s.fin →
      (s.memRead 0x0C0).toNat =
        2 ^ 24 * f.b0.toNat + 2 ^ 16 * f.b1.toNat + 2 ^ 8 * f.b2.toNat + f.b3.toNat ∧
      (s.memRead 0x0C4).toNat =
        2 ^ 24 * f.b4.toNat + 2 ^ 16 * f.b5.toNat + 2 ^ 8 * f.b6.toNat + f.b7.toNat ∧
      (s.memRead 0x0C8).toNat = f.b8.toNat) ∧
    ∀ (i : Index) (f : Frame), f = s.pkt.get i →
      (s.memRead (BitVec.ofNat 9 (0x100 + 16 * i.val))).toNat =
        2 ^ 24 * f.b0.toNat + 2 ^ 16 * f.b1.toNat + 2 ^ 8 * f.b2.toNat + f.b3.toNat ∧
      (s.memRead (BitVec.ofNat 9 (0x104 + 16 * i.val))).toNat =
        2 ^ 24 * f.b4.toNat + 2 ^ 16 * f.b5.toNat + 2 ^ 8 * f.b6.toNat + f.b7.toNat ∧
      (s.memRead (BitVec.ofNat 9 (0x108 + 16 * i.val))).toNat = f.b8.toNat

/-- 10_state.md R47, 44_buffer_system.md R251: a 48-bit position reads as its low word and its
sign-extended high word. -/
def Obligations.PositionsReadAsTwoWords : Prop :=
  ∀ (s : State) (i : Index),
    (s.memRead (BitVec.ofNat 9 (0x064 + 8 * i.val))).toInt * 2 ^ 32
        + ((s.memRead (BitVec.ofNat 9 (0x060 + 8 * i.val))).toNat : Int) = (s.last.get i).toInt ∧
    (s.memRead (BitVec.ofNat 9 (0x094 + 8 * i.val))).toInt * 2 ^ 32
        + ((s.memRead (BitVec.ofNat 9 (0x090 + 8 * i.val))).toNat : Int) = (s.init.get i).toInt

/-- 20_memory.md R66: a write to a plain register keeps the low bits, the next read sees it, and every
other register reads as before; at each address of 10_state.md R47 it is the named field that is written,
and no other field. -/
def Obligations.PlainWriteKeepsTheLowBits : Prop :=
  (∀ (s : State) (r : HostReg) (m v : Word), s.busy = false → keptBits r = some m →
    ∃ t, s.hostWrite (regAddr r) v = .next t ∧ t.memRead (regAddr r) = v &&& m ∧
      (∀ a, a ≠ regAddr r → t.memRead a = s.memRead a) ∧
      t.config = s.config ∧ t.schedule = s.schedule ∧ t.emitted = s.emitted ∧
      t.hostReads = s.hostReads) ∧
  ∀ (s : State) (v : Word), s.busy = false →
    (∃ f, s.hostWrite 0x00C v = .next { s with ie := f } ∧
      flagsNumber f = (v &&& 0x00000F03).toNat) ∧
    s.hostWrite 0x010 v = .next { s with timeout := BitVec.ofNat 31 v.toNat } ∧
    s.hostWrite 0x018 v = .next { s with feed := BitVec.ofNat 16 v.toNat } ∧
    s.hostWrite 0x058 v = .next { s with inv := BitVec.ofNat 6 v.toNat } ∧
    (∃ b0 b1 b2 b3 : Byte,
      s.hostWrite 0x0C0 v =
        .next { s with fin := { s.fin with b0 := b0, b1 := b1, b2 := b2, b3 := b3 } } ∧
      v.toNat = 2 ^ 24 * b0.toNat + 2 ^ 16 * b1.toNat + 2 ^ 8 * b2.toNat + b3.toNat) ∧
    (∃ b4 b5 b6 b7 : Byte,
      s.hostWrite 0x0C4 v =
        .next { s with fin := { s.fin with b4 := b4, b5 := b5, b6 := b6, b7 := b7 } } ∧
      v.toNat = 2 ^ 24 * b4.toNat + 2 ^ 16 * b5.toNat + 2 ^ 8 * b6.toNat + b7.toNat) ∧
    s.hostWrite 0x0C8 v = .next { s with fin := { s.fin with b8 := BitVec.ofNat 8 v.toNat } } ∧
    ∀ i : Index,
      s.hostWrite (BitVec.ofNat 9 (0x020 + 4 * i.val)) v = .next { s with tgt := s.tgt.set i v } ∧
      s.hostWrite (BitVec.ofNat 9 (0x040 + 4 * i.val)) v =
        .next { s with gear := s.gear.set i (BitVec.ofNat 16 v.toNat) }

/-- 20_memory.md R69, R70: a write to a read-only register or a reserved address changes nothing while
not busy, and a reserved address reads as 0. -/
def Obligations.ReadOnlyAndReservedIgnoreWrites : Prop :=
  ∀ (s : State) (a : HostAddr) (v : Word), aligned a = true →
    (s.busy = false → (regAt a = none ∨ ∃ r, regAt a = some r ∧ readOnly r = true) →
      s.hostWrite a v = .next s) ∧
    (regAt a = none → s.memRead a = 0)

/-- 20_memory.md R68: a write to `EV` while not busy clears exactly the bits written as 1; while busy it
clears nothing and sets `ERR_BUSY`. -/
def Obligations.EvIsWriteOneToClear : Prop :=
  ∀ (s : State) (v : Word), ∃ t, s.hostWrite 0x008 v = .next t ∧ t = { s with ev := t.ev } ∧
    t.memRead 0x008 =
      if s.fsm = .sending ∨ s.fsm = .awaitingAck then s.memRead 0x008 ||| 0x100
      else s.memRead 0x008 &&& ~~~v

/-- 20_memory.md R71: while busy every host write, to any address and with any data, sets `ERR_BUSY` and
changes nothing else; so does every command; reads are not affected. -/
def Obligations.BusyWriteOnlySetsErrBusy : Prop :=
  ∀ s : State, s.fsm = .sending ∨ s.fsm = .awaitingAck →
    (∀ a v, aligned a = true →
      s.hostWrite a v = .next { s with ev := { s.ev with errBusy := true } }) ∧
    (∀ i, i ∈ [Instr.nop, .encp, .sync, .send, .axrst, .pclr] ∨ (∃ a, i = .encf a ∨ i = .ldf a) →
      exec i s = .next { s with ev := { s.ev with errBusy := true } }) ∧
    ∀ a, aligned a = true →
      s.hostRead a = .next { s with hostReads := s.hostReads ++ [s.memRead a] }

/-- 20_memory.md R62: a read hands the value to the host and changes no state of the block, busy or not
(the record of read values is the model's own: log entry 15). -/
def Obligations.ReadChangesNothing : Prop :=
  ∀ (s : State) (a : HostAddr) (rest : List Event), s.schedule = .rd a :: rest → aligned a = true →
    step s = .next { s with schedule := rest, hostReads := s.hostReads ++ [s.memRead a] }

/-- 20_memory.md R65: a host access whose address is not a multiple of 4 is refused by the model. -/
def Obligations.UnalignedAccessHasNoMeaning : Prop :=
  ∀ (s : State) (a : HostAddr) (v : Word) (rest : List Event), a.toNat % 4 ≠ 0 →
    step { s with schedule := .wr a v :: rest } = .refused (.unalignedHostAccess a) ∧
    step { s with schedule := .rd a :: rest } = .refused (.unalignedHostAccess a)

/-- 60_exceptions.md R270: `irq` is 1 exactly when `EV` and `IE` have a common bit. -/
def Obligations.IrqIsTheEnabledFlags : Prop :=
  ∀ s : State, s.irq = true ↔ s.memRead 0x008 &&& s.memRead 0x00C ≠ 0

/-! A step. -/

/-- A write of a command word to `CMD` runs the command it decodes to, in the same step
(20_memory.md R72). -/
def Obligations.StepRunsTheDecodedCommand : Prop :=
  ∀ (s : State) (i : Instr) (w : Word) (rest : List Event), s.schedule = .wr 0x000 w :: rest →
    decodeCommand w = .ok i → step s = exec i { s with schedule := rest }

/-- The `TXACC` of a slot whose bytes decode to a FRAME runs that FRAME (log entry 5). -/
def Obligations.StepTransmitsThePresentedFrame : Prop :=
  ∀ (s : State) (k : Index) (rest : List Event) (i : Instr), s.schedule = .txacc :: rest →
    s.fsm = .sending → s.txIdx.val = k.val → decode (.frame (s.pkt.get k).toBits) = .ok i →
    step s = exec i { s with schedule := rest }

/-- The model's choice of the next step (log entries 1, 2, 3): the first enabled event of the schedule is
performed, the events before it stay, and with none enabled nothing changes. -/
def Obligations.StepTakesTheFirstEnabledEvent : Prop :=
  (∀ (s : State) (before after : List Event) (e : Event), s.schedule = before ++ e :: after →
    (∀ x ∈ before, s.enabled x = false) → s.enabled e = true →
    step s = State.perform { s with schedule := before ++ after } e) ∧
  (∀ s : State, (∀ x ∈ s.schedule, s.enabled x = false) → step s = .next s)

/-! The encode family (40_position_encode.md). -/

/-- 40_position_encode.md R120, R125, R126: `ENCF a` stores the Frame and the position of axis `a` and
changes nothing else. -/
def Obligations.EncfEncodesItsAxis : Prop :=
  ∀ (s : State) (i : Index) (a : Byte), s.busy = false → a.toNat = i.val + 1 →
    ∃ f p, exec (.encf a) s = .next { s with pkt := s.pkt.set i f, pvalid := s.pvalid.set i true
                                             last := s.last.set i p } ∧
      encodesAxis s i f p

/-- 30_encoding.md R93: `ENCF a` is defined for 1 to 6 and `LDF s` for 0 to 5; any other operand is
refused with `ERR_ARG`. -/
def Obligations.OperandRangesAreChecked : Prop :=
  ∀ (s : State) (a : Byte), s.busy = false →
    (a.toNat = 0 ∨ 7 ≤ a.toNat →
      exec (.encf a) s = .next { s with ev := { s.ev with errArg := true } }) ∧
    (6 ≤ a.toNat → exec (.ldf a) s = .next { s with ev := { s.ev with errArg := true } }) ∧
    (1 ≤ a.toNat → a.toNat ≤ 6 → ∃ t, exec (.encf a) s = .next t ∧ t.ev = s.ev) ∧
    (a.toNat ≤ 5 → ∃ t, exec (.ldf a) s = .next t ∧ t.ev = s.ev)

/-- 40_position_encode.md R128: `ENCP` stores the Frame and the position of every axis, marks all six
slots valid, and changes nothing else. -/
def Obligations.EncpEncodesEveryAxis : Prop :=
  ∀ s : State, s.busy = false →
    ∃ p l, exec .encp s = .next { s with pkt := p, pvalid := Six.fill true, last := l } ∧
      ∀ i, encodesAxis s i (p.get i) (l.get i)

/-- 40_position_encode.md R128: `ENCP` is the six `ENCF a`, `a` = 1 to 6 in order. -/
def Obligations.EncpIsSixEncf : Prop :=
  ∀ s : State, s.busy = false → ∃ s1 s2 s3 s4 s5 s6,
    exec (.encf 1) s = .next s1 ∧ exec (.encf 2) s1 = .next s2 ∧ exec (.encf 3) s2 = .next s3 ∧
    exec (.encf 4) s3 = .next s4 ∧ exec (.encf 5) s4 = .next s5 ∧ exec (.encf 6) s5 = .next s6 ∧
    exec .encp s = .next s6

/-- 40_position_encode.md R130: the invariants of every Frame `ENCF` or `ENCP` stores. -/
def Obligations.EncodedFramesAreWellFormed : Prop :=
  ∀ (s t : State) (i : Index) (a : Byte), s.busy = false → a.toNat = i.val + 1 →
    exec (.encf a) s = .next t ∨ exec .encp s = .next t →
    (t.pkt.get i).b1 = 0xF5 ∧ (t.pkt.get i).b4 = 0x02 ∧
    (t.pkt.get i).b8.toNat = byteTotal (t.pkt.get i) % 256 ∧
    (t.pkt.get i).b0.toNat = i.val + 1 ∧
    (signedField (t.pkt.get i) - specDisplacement s i) % 2 ^ 24 = 0 ∧
    (-2 ^ 23 ≤ specDisplacement s i → specDisplacement s i ≤ 2 ^ 23 - 1 →
      signedField (t.pkt.get i) = specDisplacement s i) ∧
    speedNumber (t.pkt.get i) = s.feed.toNat

/-- 40_position_encode.md R124: with `INV_EFFECT = false`, `INV` is stored and changes nothing: every
instruction does the same whatever `INV` holds. -/
def Obligations.InvHasNoEffectByDefault : Prop :=
  ∀ (s t : State) (i : Instr) (v : BitVec 6), s.config.invEffect = false →
    exec i s = .next t → exec i { s with inv := v } = .next { t with inv := v }

/-- 40_position_encode.md R124: with `INV_EFFECT = true`, `INV[a] = 1` negates the displacement before
the mask and not `LAST[a]`. -/
def Obligations.InversionNegatesTheDisplacement : Prop :=
  ∀ (s : State) (i : Index) (a : Byte) (v w : BitVec 6), s.busy = false → a.toNat = i.val + 1 →
    s.config.invEffect = true → v.getLsbD i.val = true → w.getLsbD i.val = false →
    ∃ t u, exec (.encf a) { s with inv := v } = .next t ∧ exec (.encf a) { s with inv := w } = .next u ∧
      (fieldNumber (t.pkt.get i) + fieldNumber (u.pkt.get i)) % 2 ^ 24 = 0 ∧ t.last = u.last

/-- 40_position_encode.md R123: the ranges of `P`, `N` and `d`, and when `d` is in the signed 24-bit
range; outside that range the 24-bit field reads as another number. -/
def Obligations.DisplacementStaysInRange : Prop :=
  ∀ (tgt : Word) (gear : BitVec 16),
    (position tgt gear).natAbs ≤ 2 ^ 31 * (2 ^ 16 - 1) ∧ 2 ^ 31 * (2 ^ 16 - 1) < 2 ^ 47 ∧
    (BitVec.ofInt 48 (position tgt gear)).toInt = position tgt gear ∧
    (position tgt gear * 100).natAbs < 2 ^ 47 * 100 ∧ 2 ^ 47 * 100 < 2 ^ 54 ∧
    (displacement (position tgt gear) 0 false).natAbs ≤ 838848000 ∧ 838848000 < 2 ^ 30 ∧
    ((-2 ^ 23 ≤ displacement (position tgt gear) 0 false ∧
        displacement (position tgt gear) 0 false ≤ 2 ^ 23 - 1) ↔
      (-8388609 * 2 ^ 24 < position tgt gear * 100 ∧ position tgt gear * 100 < 8388608 * 2 ^ 24)) ∧
    ((pack24 (displacement (position tgt gear) 0 false)).toInt
        = displacement (position tgt gear) 0 false ↔
      (-2 ^ 23 ≤ displacement (position tgt gear) 0 false ∧
        displacement (position tgt gear) 0 false ≤ 2 ^ 23 - 1))

/-- 30_encoding.md R97: packing any integer, and unpacking it as signed. -/
def Obligations.SignedFieldRoundTrip : Prop :=
  (∀ (d : Int) (axis : Byte) (feed : BitVec 16) (f : Frame), f = buildFrame axis feed (pack24 d) →
    (fieldNumber f : Int) = d % 2 ^ 24 ∧ f.b5.toNat = fieldNumber f / 65536 ∧
    f.b6.toNat = fieldNumber f / 256 % 256 ∧ f.b7.toNat = fieldNumber f % 256 ∧
    (signedField f - d) % 2 ^ 24 = 0 ∧
    (-2 ^ 23 ≤ d → d ≤ 2 ^ 23 - 1 → signedField f = d)) ∧
  pack24 (2 ^ 23) = pack24 (2 ^ 23 - 2 ^ 24)

/-- 30_encoding.md R98: the checksum of a built Frame is the sum of its first eight bytes modulo 256, and
that sum is at most 2040. -/
def Obligations.ChecksumIsTheByteSum : Prop :=
  ∀ (axis : Byte) (feed : BitVec 16) (d : BitVec 24) (f g : Frame), f = buildFrame axis feed d →
    f.b8.toNat = byteTotal f % 256 ∧ (bytesum g).toNat = byteTotal g % 256 ∧ byteTotal g ≤ 2040

/-! The buffer and system family (44_buffer_system.md). -/

/-- 44_buffer_system.md R230: `LDF s` copies `FIN` into slot `s`, marks it valid, and changes nothing
else; it checks no byte (R231). -/
def Obligations.LdfLoadsTheStagedFrame : Prop :=
  ∀ (s : State) (i : Index) (a : Byte), s.busy = false → a.toNat = i.val →
    exec (.ldf a) s = .next { s with pkt := s.pkt.set i s.fin, pvalid := s.pvalid.set i true }

/-- 30_encoding.md R106: the 24 steps of `LOADPKT` leave the six Frames in the six slots, all valid; the
eight steps of `MOVE` leave `FEED` and the six `TGT` written and, in each slot and `LAST`, what encoding
the slot's axis from them makes. -/
def Obligations.LoadpktFillsTheBuffer : Prop :=
  (∀ (s : State) (p : Six Frame) (rest : List Event), s.busy = false →
    s.schedule = loadPkt p ++ rest →
    Host.Core.run Sys2Proof.core 24 s =
      .next ({ s with schedule := rest, pkt := p, pvalid := Six.fill true, fin := p.e5 } : State)) ∧
  (∀ (f : BitVec 16) (t : Six Word), move f t =
    [.wr 0x018 (BitVec.ofNat 32 f.toNat), .wr 0x020 (t.get 0), .wr 0x024 (t.get 1),
      .wr 0x028 (t.get 2), .wr 0x02C (t.get 3), .wr 0x030 (t.get 4), .wr 0x034 (t.get 5),
      .wr 0x000 0x00000002]) ∧
  ∀ (s : State) (f : BitVec 16) (t : Six Word) (rest : List Event), s.busy = false →
    s.schedule = move f t ++ rest →
    ∃ p l, Host.Core.run Sys2Proof.core 8 s =
        .next ({ s with schedule := rest, feed := f, tgt := t, pkt := p
                        pvalid := Six.fill true, last := l } : State) ∧
      ∀ i, encodesAxis { s with feed := f, tgt := t } i (p.get i) (l.get i)

/-- 44_buffer_system.md R235: `PCLR` clears `PVALID` and nothing else. -/
def Obligations.PclrClearsOnlyValid : Prop :=
  ∀ s : State, s.busy = false → exec .pclr s = .next { s with pvalid := Six.fill false }

/-- 44_buffer_system.md R240: `AXRST` clears `LAST` and nothing else. -/
def Obligations.AxrstClearsOnlyLast : Prop :=
  ∀ s : State, s.busy = false → exec .axrst s = .next { s with last := Six.fill 0 }

/-- 44_buffer_system.md R245: `NOP` changes nothing while not busy, and while busy sets `ERR_BUSY`. -/
def Obligations.NopChangesNothing : Prop :=
  ∀ s : State, (s.busy = false → exec .nop s = .next s) ∧
    (s.busy = true → exec .nop s = .next { s with ev := { s.ev with errBusy := true } })

/-- 10_state.md R29, 44_buffer_system.md R240: no step reads `LAST`: two runs that differ in it differ in
nothing but it and the values read by the host. -/
def Obligations.LastIsNeverRead : Prop :=
  ∀ (s t : State) (l : Six (BitVec 48)) (r : List Word), step s = .next t →
    ∃ l' r', step { s with last := l, hostReads := r } = .next { t with last := l', hostReads := r' }

/-! The speed synchroniser (42_speed_sync.md). -/

/-- 42_speed_sync.md R171, R172, R173, R175: `SYNC` computes the reference speed, rewrites nothing when
it is 0, else the speed bytes of each slot by `SPEED_NORM`, and no other byte. -/
def Obligations.SyncComputesTheReferenceSpeed : Prop :=
  ∀ s : State, s.busy = false → s.pvalid = Six.fill true →
    ∃ ref p, exec .sync s = .next { s with refSpeed := ref, pkt := p } ∧
      ref.toNat = speedTotal s.pkt / 6 ∧ speedTotal s.pkt ≤ 393210 ∧ (ref = 0 ↔ speedTotal s.pkt ≤ 5) ∧
      (ref = 0 → p = s.pkt) ∧
      (ref ≠ 0 → ∀ i, p.get i = { s.pkt.get i with b2 := (p.get i).b2, b3 := (p.get i).b3 } ∧
        speedNumber (p.get i) =
          (speedNormOf s.config.speedNorm (BitVec.ofNat 16 (speedNumber (s.pkt.get i))) ref).toNat)

/-- 42_speed_sync.md R174, R178: with the default `SPEED_NORM`, the exact value of
`floor((speed / ref) * ref)`, `SYNC` changes `REFSPEED` only, a second `SYNC` gives the same, and after
`ENCP` it gives `REFSPEED = FEED`. -/
def Obligations.SyncByDefaultChangesOnlyRefspeed : Prop :=
  (∀ speed ref : BitVec 16, ref ≠ 0 →
    ((speedNormOf [] speed ref).toNat : Int) = ⌊((speed.toNat : ℚ) / ref.toNat) * ref.toNat⌋) ∧
  ∀ s : State, s.config.speedNorm = [] → s.busy = false → s.pvalid = Six.fill true →
    ∃ t, exec .sync s = .next t ∧ t = { s with refSpeed := t.refSpeed } ∧ exec .sync t = .next t ∧
      ∃ u v, exec .encp s = .next u ∧ exec .sync u = .next v ∧
        v = { u with refSpeed := s.feed }

/-- 60_exceptions.md R266: `SYNC` and `SEND` with some `PVALID` bit 0 set `ERR_PKT` and nothing else. -/
def Obligations.IncompletePacketIsRefused : Prop :=
  ∀ (s : State) (i : Index), s.busy = false → s.pvalid.get i = false →
    exec .sync s = .next { s with ev := { s.ev with errPkt := true } } ∧
    exec .send s = .next { s with ev := { s.ev with errPkt := true } }

/-! The transmit family (43_transmit.md). -/

/-- 43_transmit.md R186: an accepted `SEND` normalises as `SYNC` does, clears `PVALID`, `ACK`, `TXIDX`
and `TIMER`, enters `SENDING`, and changes nothing else. -/
def Obligations.SendStartsThePacket : Prop :=
  ∀ s : State, s.busy = false → s.pvalid = Six.fill true →
    ∃ t, exec .sync s = .next t ∧
      exec .send s = .next { t with pvalid := Six.fill false, ack1 := .noResponse
                                    ack2 := .noResponse, txIdx := 0, timer := 0, fsm := .sending }

/-- 43_transmit.md R195, 30_encoding.md R100: while `SENDING`, `TXACC` emits the Frame of slot `TXIDX`
and advances; the sixth enters `AWAITING_ACK` with `TIMER` 0. The step is enabled only while
`SENDING`. -/
def Obligations.TxaccSendsTheNextFrame : Prop :=
  (∀ (s : State) (k : Index) (f : Frame) (rest : List Event), s.schedule = .txacc :: rest →
    s.fsm = .sending → s.txIdx.val = k.val → f = s.pkt.get k →
    step s = .next { s with
      schedule := rest
      emitted := s.emitted ++ [{ id := BitVec.ofNat 11 f.b0.toNat, extended := false, dlc := 8
                                 data := [f.b1, f.b2, f.b3, f.b4, f.b5, f.b6, f.b7, f.b8] }]
      txIdx := k.succ
      fsm := if k = 5 then .awaitingAck else .sending
      timer := if k = 5 then 0 else s.timer }) ∧
  ∀ s : State, s.enabled .txacc = true → s.fsm = .sending

/-- The FRAME row (30_encoding.md R95, R100; 43_transmit.md R195; log entry 5): while `SENDING`, the
Frame goes out as its bus frame and the sequencer advances. -/
def Obligations.FrameIsTransmittedWhileSending : Prop :=
  ∀ (s : State) (k : Index) (axis : Byte) (speed : BitVec 16) (disp : BitVec 24) (checksum : Byte),
    s.fsm = .sending → s.txIdx.val = k.val →
    ∃ sh sl dh dm dl : Byte,
      256 * sh.toNat + sl.toNat = speed.toNat ∧
      65536 * dh.toNat + 256 * dm.toNat + dl.toNat = disp.toNat ∧
      exec (.frame axis speed disp checksum) s = .next { s with
        emitted := s.emitted ++ [{ id := BitVec.ofNat 11 axis.toNat, extended := false, dlc := 8
                                   data := [0xF5, sh, sl, 0x02, dh, dm, dl, checksum] }]
        txIdx := k.succ
        fsm := if k = 5 then .awaitingAck else .sending
        timer := if k = 5 then 0 else s.timer }

/-- 43_transmit.md R200: an accepted frame records its status byte for its id, and the packet is
satisfied when both are 2; any other frame changes nothing; the step is enabled only in
`AWAITING_ACK`. -/
def Obligations.RxRecordsTheLatestStatus : Prop :=
  (∀ (s : State) (f : RxFrame) (rest : List Event), s.schedule = .rx f :: rest →
    s.fsm = .awaitingAck →
    (¬ accepted f → step s = .next { s with schedule := rest }) ∧
    (accepted f → ∃ (x y : AckStatus) (b : Byte), f.data[1]? = some b ∧
      ackNumber x = (if f.id = 1 then b.toNat else ackNumber s.ack1) ∧
      ackNumber y = (if f.id = 2 then b.toNat else ackNumber s.ack2) ∧
      step s = .next { s with
        schedule := rest, ack1 := x, ack2 := y
        fsm := if ackNumber x = 2 ∧ ackNumber y = 2 then .satisfied else .awaitingAck
        ev := { s.ev with sat := s.ev.sat || decide (ackNumber x = 2 ∧ ackNumber y = 2) } })) ∧
  ∀ (s : State) (f : RxFrame), s.enabled (.rx f) = true ↔ s.fsm = .awaitingAck

/-- 43_transmit.md R205: in `AWAITING_ACK` a tick is counted, and the packet times out when the new
count exceeds `TIMEOUT`; in every other state a tick has no effect. `timerOk` rules out the counts no
run reaches (log entry 12). -/
def Obligations.TickCountsAndTimesOut : Prop :=
  ∀ (s : State) (rest : List Event), s.schedule = .tick :: rest → s.timerOk →
    ∃ t : Word, (s.fsm = .awaitingAck → t.toNat = s.timer.toNat + 1) ∧
      step s = .next (
        if s.fsm ≠ .awaitingAck then { s with schedule := rest }
        else if s.timer.toNat + 1 > s.timeout.toNat then
          { s with schedule := rest, timer := t, fsm := .timedOut
                   ev := { s.ev with timedOut := true } }
        else { s with schedule := rest, timer := t })

/-- 43_transmit.md R210: whenever a step changes `FSM`, it is one of the listed transitions. -/
def Obligations.FsmMovesOnlyByItsTransitions : Prop :=
  ∀ s t : State, step s = .next t → t.fsm ≠ s.fsm →
    (s.nextEvent = some .rst ∧ t.fsm = .idle) ∨
    (∃ w, s.nextEvent = some (.wr 0x000 w) ∧ decodeCommand w = .ok .send ∧
      (s.fsm = .idle ∨ s.fsm = .satisfied ∨ s.fsm = .timedOut) ∧ s.pvalid = Six.fill true ∧
      t.fsm = .sending) ∨
    (s.nextEvent = some .txacc ∧ s.fsm = .sending ∧ s.txIdx.val = 5 ∧ t.fsm = .awaitingAck ∧
      t.txIdx.val = 6 ∧ t.timer = 0) ∨
    (∃ f, s.nextEvent = some (.rx f) ∧ accepted f ∧ s.fsm = .awaitingAck ∧
      t.ack1 = .status2 ∧ t.ack2 = .status2 ∧ t.fsm = .satisfied ∧ t.ev.sat = true) ∨
    (s.nextEvent = some .tick ∧ s.fsm = .awaitingAck ∧ s.timer.toNat + 1 > s.timeout.toNat ∧
      t.fsm = .timedOut ∧ t.timer = s.timer + 1 ∧ t.ev.timedOut = true)

/-- 43_transmit.md R211, 20_memory.md R77: from the start of a packet until it resolves, in every run
without a reset, the frames on the bus are the packet's own in slot order, and all six when it resolves;
the resolution is the first state that is not busy. -/
def Obligations.PacketBarrier : Prop :=
  ∀ (n : Nat) (s t : State), s.fsm = .sending → s.txIdx = 0 → Event.rst ∉ s.schedule →
    (∀ m u, m < n → Host.Core.run Sys2Proof.core m s = .next u → State.busy u = true) →
    Host.Core.run Sys2Proof.core n s = .next t →
    t.sentSince s.emitted ∧ t.pkt = s.pkt ∧
      (t.busy = false → t.emitted = s.emitted ++ packetFrames s.pkt ∧
        (t.fsm = .satisfied ∨ t.fsm = .timedOut))

/-- 20_memory.md R60, 43_transmit.md R195: a step puts at most one frame on the bus, and only a `TXACC`
while `SENDING` does. -/
def Obligations.OnlyTxaccEmits : Prop :=
  ∀ s t : State, step s = .next t →
    t.emitted = s.emitted ∨
      (s.nextEvent = some .txacc ∧ s.fsm = .sending ∧ ∃ i, s.txIdx.val = i.val ∧
        t.emitted = s.emitted ++ [marshal (s.pkt.get i)])

/-- The invariant holds after reset (70_reset_and_hazards.md R291). -/
def Obligations.InvHoldsAfterReset : Prop := State.reset.Inv

/-- Every step keeps the invariant: `INIT` is 0 (10_state.md R28), a packet in progress has no valid
slot, and `TXIDX`, `ACK`, `TIMER` agree with `FSM` (10_state.md R41, R42, R43). -/
def Obligations.EveryStepKeepsInv : Prop :=
  ∀ s t : State, s.Inv → step s = .next t → t.Inv

/-- 43_transmit.md R213, R214: with every frame taken and no acknowledgement, the packet resolves after
six `TXACC` and `TIMEOUT + 1` ticks, by timing out; so it does when one responder stays silent, whatever
frames come from any other id between the ticks. -/
def Obligations.PacketTimesOutInBoundedSteps : Prop :=
  (∀ (s : State) (rest : List Event), s.fsm = .sending → s.txIdx = 0 →
    s.schedule = List.replicate 6 .txacc ++ List.replicate (s.timeout.toNat + 1) .tick ++ rest →
    ∃ timer : Word, timer.toNat = s.timeout.toNat + 1 ∧
      Host.Core.run Sys2Proof.core (6 + (s.timeout.toNat + 1)) s = .next ({ s with
        schedule := rest, emitted := s.emitted ++ packetFrames s.pkt, txIdx := 6, timer := timer
        fsm := .timedOut, ev := { s.ev with timedOut := true } } : State)) ∧
  ∀ (s : State) (silent : BitVec 11) (es rest : List Event), s.fsm = .sending → s.txIdx = 0 →
    s.staysSilent silent es → es.count .tick = s.timeout.toNat →
    s.schedule = List.replicate 6 .txacc ++ (es ++ .tick :: rest) →
    ∃ (timer : Word) (x y : AckStatus), timer.toNat = s.timeout.toNat + 1 ∧
      ackNumber x = latestStatus 1 (ackNumber s.ack1) es ∧
      ackNumber y = latestStatus 2 (ackNumber s.ack2) es ∧
      Host.Core.run Sys2Proof.core (6 + (es.length + 1)) s = .next ({ s with
        schedule := rest, emitted := s.emitted ++ packetFrames s.pkt, txIdx := 6, timer := timer
        ack1 := x, ack2 := y, fsm := .timedOut, ev := { s.ev with timedOut := true } } : State)

/-- 43_transmit.md R214: frames from ids 1 and 2 whose status byte is 2, in either order, after ticks
that do not exceed the timeout, satisfy the packet; `TIMER` keeps the count (R202). While one responder
stays silent, whatever comes from any other id, the tick that exceeds the timeout times the packet out;
each `ACK` keeps its latest status, the silent one's `NONE` (R206). -/
def Obligations.BothAcksSatisfyThePacket : Prop :=
  (∀ (s : State) (n : Nat) (f g : RxFrame) (rest : List Event), s.fsm = .awaitingAck →
    s.ack1 = .noResponse → s.ack2 = .noResponse → s.timer.toNat + n ≤ s.timeout.toNat →
    ((f.id = 1 ∧ g.id = 2) ∨ (f.id = 2 ∧ g.id = 1)) → f.data[1]? = some 2 → g.data[1]? = some 2 →
    s.schedule = List.replicate n .tick ++ .rx f :: .rx g :: rest →
    ∃ timer : Word, timer.toNat = s.timer.toNat + n ∧
      Host.Core.run Sys2Proof.core (n + 2) s = .next ({ s with
        schedule := rest, timer := timer, ack1 := .status2, ack2 := .status2
        fsm := .satisfied, ev := { s.ev with sat := true } } : State)) ∧
  ∀ (s : State) (silent : BitVec 11) (es rest : List Event), s.fsm = .awaitingAck →
    s.staysSilent silent es → s.timer.toNat + es.count .tick = s.timeout.toNat →
    s.schedule = es ++ .tick :: rest →
    ∃ (timer : Word) (x y : AckStatus), timer.toNat = s.timeout.toNat + 1 ∧
      ackNumber x = latestStatus 1 (ackNumber s.ack1) es ∧
      ackNumber y = latestStatus 2 (ackNumber s.ack2) es ∧
      (silent = 1 → x = .noResponse) ∧ (silent = 2 → y = .noResponse) ∧
      Host.Core.run Sys2Proof.core (es.length + 1) s = .next ({ s with
        schedule := rest, timer := timer, ack1 := x, ack2 := y
        fsm := .timedOut, ev := { s.ev with timedOut := true } } : State)

/-! Errors, reset and the whole machine (60_exceptions.md, 70_reset_and_hazards.md). -/

/-- 70_reset_and_hazards.md R290, R291: after `RST`, from any state, every register reads 0 but `GEAR`,
which reads `0x100`; `irq` is 0; `FSM` is `IDLE`; no frame is presented and none taken. -/
def Obligations.ResetLeavesTheStatedValues : Prop :=
  ∀ (s : State) (rest : List Event), s.schedule = .rst :: rest →
    ∃ t, step s = .next t ∧ t.fsm = .idle ∧ t.irq = false ∧ t.presented = none ∧
      (∀ f, t.enabled (.rx f) = false) ∧
      ∀ r, t.memRead (regAddr r) = if ∃ i, r = .gear i then 0x00000100 else 0

/-- 70_reset_and_hazards.md R292, R293, as log entry 16 reads them: `RST` keeps what is outside the block:
the parameters, the agents' coming steps, the frames already handed over, the values already read. -/
def Obligations.ResetKeepsWhatIsOutside : Prop :=
  ∀ (s : State) (rest : List Event), s.schedule = .rst :: rest →
    step s = .next { State.reset with config := s.config, schedule := rest, emitted := s.emitted
                                      hostReads := s.hostReads }

/-- 60_exceptions.md R262, 20_memory.md R65: a run whose host accesses are all aligned never stops. -/
def Obligations.WellFormedScheduleNeverStops : Prop :=
  ∀ (n : Nat) (s : State), wellFormedSchedule s.schedule →
    ∃ t, Host.Core.run Sys2Proof.core n s = .next t

/-- 70_reset_and_hazards.md R319: the sequencer's steps write no slot, no `LAST`, no `FIN`, no operand
and no configuration. -/
def Obligations.SequencerStepsLeaveTheBuffer : Prop :=
  ∀ (s t : State) (e : Event), s.perform e = .next t → (e = .txacc ∨ e = .tick ∨ ∃ f, e = .rx f) →
    t = { s with emitted := t.emitted, txIdx := t.txIdx, fsm := t.fsm, timer := t.timer
                 ack1 := t.ack1, ack2 := t.ack2, ev := t.ev }

/-- 60_exceptions.md R275: one step raises at most one flag. -/
def Obligations.OneFlagPerStep : Prop :=
  ∀ s t : State, step s = .next t →
    ((List.zip (flagList s.ev) (flagList t.ev)).filter fun p => !p.1 && p.2).length ≤ 1

/-- 10_state.md R45: a flag is cleared only by a host write to `EV` while not busy, or by reset. -/
def Obligations.FlagsClearedOnlyByHostOrReset : Prop :=
  ∀ s t : State, step s = .next t →
    (∃ p ∈ List.zip (flagList s.ev) (flagList t.ev), p = (true, false)) →
    s.nextEvent = some .rst ∨ (s.busy = false ∧ ∃ v, s.nextEvent = some (.wr 0x008 v))

/-- 10_state.md R32: a `PVALID` bit is set only by `ENCF` of its axis, `ENCP`, or `LDF` of its slot. -/
def Obligations.ValidSetOnlyByLoadingCommands : Prop :=
  ∀ (s t : State) (i : Index), step s = .next t → s.pvalid.get i = false → t.pvalid.get i = true →
    s.busy = false ∧ ∃ w, s.nextEvent = some (.wr 0x000 w) ∧
      (decodeCommand w = .ok (.encf (BitVec.ofNat 8 (i.val + 1))) ∨ decodeCommand w = .ok .encp ∨
        decodeCommand w = .ok (.ldf (BitVec.ofNat 8 i.val)))

/-- 60_exceptions.md R275, 43_transmit.md R207, as log entry 21 reads them, the steps of one clock cycle:
the acknowledgement that completes the pair, from either id, satisfies the packet although a tick falls
in the same cycle, which does nothing; a host write in the cycle in which the packet resolves, by the
acknowledgement or by the tick, finds the block not busy; `TXACC` comes before `TICK` and the host write;
`RST` overrides everything. -/
def Obligations.AckInTheDecidingCycleSatisfies : Prop :=
  (∀ (s : State) (f : RxFrame) (ready : Bool), s.fsm = .awaitingAck → s.completesThePair f →
    s.schedule = s.cycleEvents ready (some f) true none false →
    Host.Core.run Sys2Proof.core 2 s = .next ({ s with
      schedule := [], ack1 := .status2, ack2 := .status2, fsm := .satisfied
      ev := { s.ev with sat := true } } : State)) ∧
  (∀ (s t : State) (f : RxFrame) (ready : Bool) (a : HostAddr) (v : Word), s.fsm = .awaitingAck →
    s.completesThePair f →
    s.schedule = s.cycleEvents ready (some f) true (some (.wr a v)) false →
    t = { s with schedule := [], ack1 := .status2, ack2 := .status2, fsm := .satisfied
                 ev := { s.ev with sat := true } } →
    t.busy = false ∧ Host.Core.run Sys2Proof.core 3 s = t.hostWrite a v) ∧
  (∀ (s t : State) (ready : Bool) (a : HostAddr) (v : Word), s.fsm = .awaitingAck →
    s.timer.toNat + 1 > s.timeout.toNat →
    s.schedule = s.cycleEvents ready none true (some (.wr a v)) false →
    t = { s with schedule := [], timer := s.timer + 1, fsm := .timedOut
                 ev := { s.ev with timedOut := true } } →
    t.busy = false ∧ Host.Core.run Sys2Proof.core 2 s = t.hostWrite a v) ∧
  (∀ (s t : State) (k : Index) (rx : Option RxFrame) (a : HostAddr) (v : Word), s.fsm = .sending →
    s.txIdx.val = k.val →
    s.schedule = s.cycleEvents true rx true (some (.wr a v)) false →
    t = { s with
      schedule := []
      emitted := s.emitted ++ [marshal (s.pkt.get k)]
      txIdx := k.succ
      fsm := if k ≠ 5 then .sending else if s.timeout = 0 then .timedOut else .awaitingAck
      timer := if k = 5 then 1 else s.timer
      ev := if k = 5 ∧ s.timeout = 0 then { s.ev with timedOut := true } else s.ev } →
    Host.Core.run Sys2Proof.core 3 s = t.hostWrite a v) ∧
  ∀ (s : State) (ready tick : Bool) (rx : Option RxFrame) (host : Option Event),
    s.schedule = s.cycleEvents ready rx tick host true →
    step s = .next { State.reset with config := s.config, schedule := [], emitted := s.emitted
                                      hostReads := s.hostReads }
end

