-- ==== Sys2Proof/Laws/Bits.lean ====
section
/-! SUPPORT. Bit fields: extraction from a concatenation, and the fields of command words, Frames and
register words. -/

namespace Sys2Proof.Machine

theorem extract_append_high {m n : Nat} (x : BitVec m) (y : BitVec n) (k w : Nat) :
    (x ++ y).extractLsb' (n + k) w = x.extractLsb' k w := by
  apply BitVec.eq_of_getLsbD_eq
  intro i hi
  have h : ¬ n + k + i < n := by omega
  have e : n + k + i - n = k + i := by omega
  simp [BitVec.getLsbD_append, hi, h, e]

theorem extract_append_low {m n : Nat} (x : BitVec m) (y : BitVec n) (k w : Nat) (h : k + w ≤ n) :
    (x ++ y).extractLsb' k w = y.extractLsb' k w := by
  apply BitVec.eq_of_getLsbD_eq
  intro i hi
  have h' : k + i < n := by omega
  simp [BitVec.getLsbD_append, hi, h']

theorem extract_all {n : Nat} (x : BitVec n) : x.extractLsb' 0 n = x := by
  apply BitVec.eq_of_getLsbD_eq
  intro i hi
  simp [hi]

theorem append_extract {a b : Nat} (x : BitVec (a + b)) :
    x.extractLsb' b a ++ x.extractLsb' 0 b = x := by simp

/-- Two neighbouring fields are one field. -/
theorem extract_append_extract {n : Nat} (x : BitVec n) (k a b : Nat) :
    x.extractLsb' (k + b) a ++ x.extractLsb' k b = x.extractLsb' k (a + b) := by
  apply BitVec.eq_of_getLsbD_eq
  intro i hi
  simp only [BitVec.getLsbD_append, BitVec.getLsbD_extractLsb', hi]
  by_cases h : i < b
  · simp [h]
  · have h1 : k + b + (i - b) = k + i := by omega
    have h2 : i - b < a := by omega
    simp [h, h1, h2]

/-- The number a concatenation stands for. -/
theorem toNat_append_add {m n : Nat} (x : BitVec m) (y : BitVec n) :
    (x ++ y).toNat = x.toNat * 2 ^ n + y.toNat := by
  rw [BitVec.toNat_append, Nat.shiftLeft_eq, Nat.mul_comm, ← Nat.two_pow_add_eq_or_of_lt y.isLt]

/-- The number a field stands for. -/
theorem toNat_extract {n : Nat} (x : BitVec n) (k w : Nat) :
    (x.extractLsb' k w).toNat = x.toNat / 2 ^ k % 2 ^ w := by
  simp [Nat.shiftRight_eq_div_pow]

/-! Command words (30_encoding.md R90). -/

@[simp] theorem opField_commandWord (a op : Byte) : opField (commandWord a op) = op :=
  (extract_append_low (0#16 ++ a) op 0 8 (by decide)).trans (extract_all op)

@[simp] theorem aField_commandWord (a op : Byte) : aField (commandWord a op) = a :=
  (extract_append_high (0#16 ++ a) op 0 8).trans
    ((extract_append_low 0#16 a 0 8 (by decide)).trans (extract_all a))

@[simp] theorem zeroField_commandWord (a op : Byte) : zeroField (commandWord a op) = 0 :=
  (extract_append_high (0#16 ++ a) op 8 16).trans
    ((extract_append_high 0#16 a 0 16).trans (extract_all 0#16))

theorem word_of_fields (w : Word) : (zeroField w ++ aField w) ++ opField w = w := by
  apply BitVec.eq_of_getLsbD_eq
  intro i hi
  have hi' : i < 32 := hi
  simp only [BitVec.getLsbD_append, zeroField, aField, opField, BitVec.getLsbD_extractLsb']
  by_cases h1 : i < 8
  · simp [h1]
  · by_cases h2 : i - 8 < 8
    · have h3 : 8 + (i - 8) = i := by omega
      simp [h1, h2, h3]
    · have h3 : 16 + (i - 8 - 8) = i := by omega
      have h4 : i - 8 - 8 < 16 := by omega
      simp [h1, h2, h3, h4]

theorem commandWord_of_fields (w : Word) (hz : zeroField w = 0) :
    commandWord (aField w) (opField w) = w := by
  have h := word_of_fields w
  rw [hz] at h
  exact h

/-! The bytes of a Frame's 72 bits (30_encoding.md R95). -/

theorem frame_bits_fields (a : Byte) (b : Byte) (s : BitVec 16) (c : Byte) (p : BitVec 24) (k : Byte) :
    let w : BitVec 72 := (((((a ++ b) ++ s) ++ c) ++ p) ++ k)
    w.extractLsb' 64 8 = a ∧ w.extractLsb' 56 8 = b ∧ w.extractLsb' 40 16 = s
      ∧ w.extractLsb' 32 8 = c ∧ w.extractLsb' 8 24 = p ∧ w.extractLsb' 0 8 = k := by
  intro w
  refine ⟨?_, ?_, ?_, ?_, ?_, ?_⟩
  · exact (extract_append_high ((((a ++ b) ++ s) ++ c) ++ p) k 56 8).trans
      ((extract_append_high (((a ++ b) ++ s) ++ c) p 32 8).trans
        ((extract_append_high ((a ++ b) ++ s) c 24 8).trans
          ((extract_append_high (a ++ b) s 8 8).trans
            ((extract_append_high a b 0 8).trans (extract_all a)))))
  · exact (extract_append_high ((((a ++ b) ++ s) ++ c) ++ p) k 48 8).trans
      ((extract_append_high (((a ++ b) ++ s) ++ c) p 24 8).trans
        ((extract_append_high ((a ++ b) ++ s) c 16 8).trans
          ((extract_append_high (a ++ b) s 0 8).trans
            ((extract_append_low a b 0 8 (by decide)).trans (extract_all b)))))
  · exact (extract_append_high ((((a ++ b) ++ s) ++ c) ++ p) k 32 16).trans
      ((extract_append_high (((a ++ b) ++ s) ++ c) p 8 16).trans
        ((extract_append_high ((a ++ b) ++ s) c 0 16).trans
          ((extract_append_low (a ++ b) s 0 16 (by decide)).trans (extract_all s))))
  · exact (extract_append_high ((((a ++ b) ++ s) ++ c) ++ p) k 24 8).trans
      ((extract_append_high (((a ++ b) ++ s) ++ c) p 0 8).trans
        ((extract_append_low ((a ++ b) ++ s) c 0 8 (by decide)).trans (extract_all c)))
  · exact (extract_append_high ((((a ++ b) ++ s) ++ c) ++ p) k 0 24).trans
      ((extract_append_low (((a ++ b) ++ s) ++ c) p 0 24 (by decide)).trans (extract_all p))
  · exact (extract_append_low ((((a ++ b) ++ s) ++ c) ++ p) k 0 8 (by decide)).trans (extract_all k)

/-- A 16-bit value is its two bytes (30_encoding.md R96). -/
@[simp] theorem bytes_append16 (x : BitVec 16) : x.extractLsb' 8 8 ++ x.extractLsb' 0 8 = x :=
  append_extract (a := 8) (b := 8) x

/-- The high byte of two bytes. -/
@[simp] theorem extract_high_of_two (x y : Byte) : (x ++ y).extractLsb' 8 8 = x :=
  (extract_append_high x y 0 8).trans (extract_all x)

/-- The low byte of two bytes. -/
@[simp] theorem extract_low_of_two (x y : Byte) : (x ++ y).extractLsb' 0 8 = y :=
  (extract_append_low x y 0 8 (by decide)).trans (extract_all y)

/-- A 24-bit value is its three bytes (30_encoding.md R97). -/
@[simp] theorem bytes_append24 (x : BitVec 24) :
    (x.extractLsb' 16 8 ++ x.extractLsb' 8 8) ++ x.extractLsb' 0 8 = x := by
  have h : x.extractLsb' 16 8 ++ x.extractLsb' 8 8 = x.extractLsb' 8 16 := by
    apply BitVec.eq_of_getLsbD_eq
    intro i hi
    have hi' : i < 16 := hi
    simp only [BitVec.getLsbD_append, BitVec.getLsbD_extractLsb']
    by_cases h1 : i < 8
    · have h2 : i < 16 := by omega
      simp [h1, h2]
    · have h2 : i - 8 < 8 := by omega
      have h3 : 16 + (i - 8) = 8 + i := by omega
      simp [h1, h2, h3, hi']
  rw [h]
  exact append_extract (a := 16) (b := 8) x

/-- The four bytes of a register word (30_encoding.md R104). -/
theorem word_bytes (a b c d : Byte) :
    let w : Word := ((a ++ b) ++ c) ++ d
    w.extractLsb' 24 8 = a ∧ w.extractLsb' 16 8 = b ∧ w.extractLsb' 8 8 = c ∧ w.extractLsb' 0 8 = d := by
  intro w
  refine ⟨?_, ?_, ?_, ?_⟩
  · exact (extract_append_high ((a ++ b) ++ c) d 16 8).trans
      ((extract_append_high (a ++ b) c 8 8).trans ((extract_append_high a b 0 8).trans (extract_all a)))
  · exact (extract_append_high ((a ++ b) ++ c) d 8 8).trans
      ((extract_append_high (a ++ b) c 0 8).trans
        ((extract_append_low a b 0 8 (by decide)).trans (extract_all b)))
  · exact (extract_append_high ((a ++ b) ++ c) d 0 8).trans
      ((extract_append_low (a ++ b) c 0 8 (by decide)).trans (extract_all c))
  · exact (extract_append_low ((a ++ b) ++ c) d 0 8 (by decide)).trans (extract_all d)

@[simp] theorem withFrameWord0_frameWord0 (f g : Frame) :
    withFrameWord0 g (frameWord0 f) = { g with b0 := f.b0, b1 := f.b1, b2 := f.b2, b3 := f.b3 } := by
  obtain ⟨h0, h1, h2, h3⟩ := word_bytes f.b0 f.b1 f.b2 f.b3
  simp only [withFrameWord0, frameWord0]
  exact Frame.mk.injEq .. ▸ ⟨h0, h1, h2, h3, rfl, rfl, rfl, rfl, rfl⟩

@[simp] theorem withFrameWord1_frameWord1 (f g : Frame) :
    withFrameWord1 g (frameWord1 f) = { g with b4 := f.b4, b5 := f.b5, b6 := f.b6, b7 := f.b7 } := by
  obtain ⟨h0, h1, h2, h3⟩ := word_bytes f.b4 f.b5 f.b6 f.b7
  simp only [withFrameWord1, frameWord1]
  exact Frame.mk.injEq .. ▸ ⟨rfl, rfl, rfl, rfl, h0, h1, h2, h3, rfl⟩

@[simp] theorem withFrameWord2_frameWord2 (f g : Frame) :
    withFrameWord2 g (frameWord2 f) = { g with b8 := f.b8 } := by
  have h : (frameWord2 f).extractLsb' 0 8 = f.b8 :=
    (extract_append_low 0#24 f.b8 0 8 (by decide)).trans (extract_all f.b8)
  simp only [withFrameWord2, h]

@[simp] theorem withSpeed_speedOf (f : Frame) : withSpeed f (speedOf f) = f := by
  simp only [withSpeed, speedOf, extract_high_of_two, extract_low_of_two]

/-- The speed field after a rewrite is the value written. -/
@[simp] theorem speedOf_withSpeed (f : Frame) (v : BitVec 16) : speedOf (withSpeed f v) = v :=
  bytes_append16 v

/-- The speed field of a built Frame is the feed rate (40_position_encode.md R125). -/
@[simp] theorem speedOf_buildFrame (a : Byte) (feed : BitVec 16) (d : BitVec 24) :
    speedOf (buildFrame a feed d) = feed := bytes_append16 feed

/-- The displacement field of a built Frame is the field it was built from. -/
@[simp] theorem displacementOf_buildFrame (a : Byte) (feed : BitVec 16) (d : BitVec 24) :
    displacementOf (buildFrame a feed d) = d := bytes_append24 d

end Sys2Proof.Machine
end

