-- ==== Sys2Proof/Laws/Decode.lean ====
section
/-! SUPPORT. What the decoder can answer, said once. -/

namespace Sys2Proof.Machine

/-- Everything the command decoder can accept (30_encoding.md R91). -/
theorem decodeCommand_cases {w : Word} {i : Instr} (h : decodeCommand w = .ok i) :
    zeroField w = 0 ∧
      ((opField w = 0x00 ∧ aField w = 0 ∧ i = .nop) ∨
        (opField w = 0x01 ∧ i = .encf (aField w)) ∨
        (opField w = 0x02 ∧ aField w = 0 ∧ i = .encp) ∨
        (opField w = 0x03 ∧ i = .ldf (aField w)) ∨
        (opField w = 0x04 ∧ aField w = 0 ∧ i = .sync) ∨
        (opField w = 0x05 ∧ aField w = 0 ∧ i = .send) ∨
        (opField w = 0x06 ∧ aField w = 0 ∧ i = .axrst) ∨
        (opField w = 0x07 ∧ aField w = 0 ∧ i = .pclr)) := by
  unfold decodeCommand at h
  split at h
  · cases h
  next hz =>
    refine ⟨not_not.1 hz, ?_⟩
    have operandless {j : Instr} (hj : withoutOperand w j = .ok i) : aField w = 0 ∧ i = j := by
      unfold withoutOperand at hj
      split at hj
      · next ha => exact ⟨ha, (Except.ok.inj hj).symm⟩
      · cases hj
    split at h
    · next ho => exact .inl ⟨ho, operandless h⟩
    split at h
    · next ho => exact .inr (.inl ⟨ho, (Except.ok.inj h).symm⟩)
    split at h
    · next ho => exact .inr (.inr (.inl ⟨ho, operandless h⟩))
    split at h
    · next ho => exact .inr (.inr (.inr (.inl ⟨ho, (Except.ok.inj h).symm⟩)))
    split at h
    · next ho => exact .inr (.inr (.inr (.inr (.inl ⟨ho, operandless h⟩))))
    split at h
    · next ho => exact .inr (.inr (.inr (.inr (.inr (.inl ⟨ho, operandless h⟩)))))
    split at h
    · next ho => exact .inr (.inr (.inr (.inr (.inr (.inr (.inl ⟨ho, operandless h⟩))))))
    split at h
    · next ho => exact .inr (.inr (.inr (.inr (.inr (.inr (.inr ⟨ho, operandless h⟩))))))
    · cases h

/-- A command word never decodes to a FRAME. -/
theorem decodeCommand_ne_frame {w : Word} {a : Byte} {s : BitVec 16} {p : BitVec 24} {c : Byte} :
    decodeCommand w ≠ .ok (.frame a s p c) := by
  intro h
  rcases (decodeCommand_cases h).2 with h | h | h | h | h | h | h | h <;> simp at h

/-- Everything the Frame decoder can accept (30_encoding.md R95). -/
theorem decodeFrameBits_cases {w : BitVec 72} {i : Instr} (h : decodeFrameBits w = .ok i) :
    w.extractLsb' 56 8 = 0xF5#8 ∧ w.extractLsb' 32 8 = 0x02#8 ∧
      i = .frame (w.extractLsb' 64 8) (w.extractLsb' 40 16) (w.extractLsb' 8 24) (w.extractLsb' 0 8) := by
  unfold decodeFrameBits at h
  split at h
  · cases h
  next h1 =>
    split at h
    · cases h
    next h2 => exact ⟨not_not.1 h1, not_not.1 h2, (Except.ok.inj h).symm⟩

/-- The address of `CMD` (10_state.md R47). -/
theorem regAt_cmd : regAt 0 = some .cmd := by decide

end Sys2Proof.Machine
end

