-- ==== Sys2Proof/Laws/Six.lean ====
section
/-! SUPPORT. The family of six: reading after writing, and extensionality. -/

namespace Sys2Proof.Six

variable {α β : Type}

theorem ext_get {v w : Six α} (h : ∀ i, v.get i = w.get i) : v = w := by
  have h0 := h 0; have h1 := h 1; have h2 := h 2
  have h3 := h 3; have h4 := h 4; have h5 := h 5
  cases v; cases w
  simp only [Six.mk.injEq]
  exact ⟨h0, h1, h2, h3, h4, h5⟩

@[simp] theorem get_set_self (v : Six α) (i : Index) (x : α) : (v.set i x).get i = x := by
  fin_cases i <;> rfl

theorem get_set_of_ne (v : Six α) {i j : Index} (h : j ≠ i) (x : α) :
    (v.set i x).get j = v.get j := by
  fin_cases i <;> fin_cases j <;> first | rfl | exact absurd rfl h

theorem get_set (v : Six α) (i j : Index) (x : α) :
    (v.set i x).get j = if j = i then x else v.get j := by
  split
  · next h => subst h; exact get_set_self v j x
  · next h => exact get_set_of_ne v h x

@[simp] theorem get_fill (x : α) (i : Index) : (Six.fill x).get i = x := by
  fin_cases i <;> rfl

@[simp] theorem get_map (f : α → β) (v : Six α) (i : Index) : (v.map f).get i = f (v.get i) := by
  fin_cases i <;> rfl

@[simp] theorem get_ofFn (f : Index → α) (i : Index) : (Six.ofFn f).get i = f i := by
  fin_cases i <;> rfl

@[simp] theorem map_id' (v : Six α) : v.map (fun x => x) = v := rfl

@[simp] theorem set_get_self (v : Six α) (i : Index) : v.set i (v.get i) = v := by
  fin_cases i <;> rfl

@[simp] theorem toList_length (v : Six α) : v.toList.length = 6 := rfl

theorem toList_getElem (v : Six α) (i : Index) :
    v.toList[i.val]'(by rw [toList_length]; exact i.isLt) = v.get i := by
  fin_cases i <;> rfl

theorem allTrue_iff (v : Six Bool) : v.allTrue = true ↔ v = Six.fill true := by
  cases v; simp [Six.allTrue, Six.fill, and_assoc]

@[simp] theorem allTrue_fill (b : Bool) : (Six.fill b).allTrue = b := by cases b <;> rfl

end Sys2Proof.Six
end

