-- ==== Sys2Proof/Laws/State.lean ====
section
/-! SUPPORT. What each named update of the state leaves unchanged and what it writes, field by field. -/

namespace Sys2Proof.Machine

/-! `raise` sets a flag of `EV` and nothing else. -/

@[simp] theorem State.raise_config (s : State) (e : Err) : (s.raise e).config = s.config := rfl
@[simp] theorem State.raise_feed (s : State) (e : Err) : (s.raise e).feed = s.feed := rfl
@[simp] theorem State.raise_tgt (s : State) (e : Err) : (s.raise e).tgt = s.tgt := rfl
@[simp] theorem State.raise_gear (s : State) (e : Err) : (s.raise e).gear = s.gear := rfl
@[simp] theorem State.raise_inv (s : State) (e : Err) : (s.raise e).inv = s.inv := rfl
@[simp] theorem State.raise_init (s : State) (e : Err) : (s.raise e).init = s.init := rfl
@[simp] theorem State.raise_last (s : State) (e : Err) : (s.raise e).last = s.last := rfl
@[simp] theorem State.raise_pkt (s : State) (e : Err) : (s.raise e).pkt = s.pkt := rfl
@[simp] theorem State.raise_pvalid (s : State) (e : Err) : (s.raise e).pvalid = s.pvalid := rfl
@[simp] theorem State.raise_fin (s : State) (e : Err) : (s.raise e).fin = s.fin := rfl
@[simp] theorem State.raise_refSpeed (s : State) (e : Err) : (s.raise e).refSpeed = s.refSpeed := rfl
@[simp] theorem State.raise_fsm (s : State) (e : Err) : (s.raise e).fsm = s.fsm := rfl
@[simp] theorem State.raise_txIdx (s : State) (e : Err) : (s.raise e).txIdx = s.txIdx := rfl
@[simp] theorem State.raise_ack1 (s : State) (e : Err) : (s.raise e).ack1 = s.ack1 := rfl
@[simp] theorem State.raise_ack2 (s : State) (e : Err) : (s.raise e).ack2 = s.ack2 := rfl
@[simp] theorem State.raise_timer (s : State) (e : Err) : (s.raise e).timer = s.timer := rfl
@[simp] theorem State.raise_timeout (s : State) (e : Err) : (s.raise e).timeout = s.timeout := rfl
@[simp] theorem State.raise_ie (s : State) (e : Err) : (s.raise e).ie = s.ie := rfl
@[simp] theorem State.raise_schedule (s : State) (e : Err) : (s.raise e).schedule = s.schedule := rfl
@[simp] theorem State.raise_emitted (s : State) (e : Err) : (s.raise e).emitted = s.emitted := rfl
@[simp] theorem State.raise_hostReads (s : State) (e : Err) : (s.raise e).hostReads = s.hostReads := rfl
@[simp] theorem State.raise_ev (s : State) (e : Err) : (s.raise e).ev = s.ev.withErr e := rfl

/-! `fillSlot` writes one slot and its `PVALID` bit. -/

@[simp] theorem State.fillSlot_config (s : State) (i : Index) (f : Frame) : (s.fillSlot i f).config = s.config := rfl
@[simp] theorem State.fillSlot_feed (s : State) (i : Index) (f : Frame) : (s.fillSlot i f).feed = s.feed := rfl
@[simp] theorem State.fillSlot_tgt (s : State) (i : Index) (f : Frame) : (s.fillSlot i f).tgt = s.tgt := rfl
@[simp] theorem State.fillSlot_gear (s : State) (i : Index) (f : Frame) : (s.fillSlot i f).gear = s.gear := rfl
@[simp] theorem State.fillSlot_inv (s : State) (i : Index) (f : Frame) : (s.fillSlot i f).inv = s.inv := rfl
@[simp] theorem State.fillSlot_init (s : State) (i : Index) (f : Frame) : (s.fillSlot i f).init = s.init := rfl
@[simp] theorem State.fillSlot_last (s : State) (i : Index) (f : Frame) : (s.fillSlot i f).last = s.last := rfl
@[simp] theorem State.fillSlot_fin (s : State) (i : Index) (f : Frame) : (s.fillSlot i f).fin = s.fin := rfl
@[simp] theorem State.fillSlot_refSpeed (s : State) (i : Index) (f : Frame) : (s.fillSlot i f).refSpeed = s.refSpeed := rfl
@[simp] theorem State.fillSlot_fsm (s : State) (i : Index) (f : Frame) : (s.fillSlot i f).fsm = s.fsm := rfl
@[simp] theorem State.fillSlot_txIdx (s : State) (i : Index) (f : Frame) : (s.fillSlot i f).txIdx = s.txIdx := rfl
@[simp] theorem State.fillSlot_ack1 (s : State) (i : Index) (f : Frame) : (s.fillSlot i f).ack1 = s.ack1 := rfl
@[simp] theorem State.fillSlot_ack2 (s : State) (i : Index) (f : Frame) : (s.fillSlot i f).ack2 = s.ack2 := rfl
@[simp] theorem State.fillSlot_timer (s : State) (i : Index) (f : Frame) : (s.fillSlot i f).timer = s.timer := rfl
@[simp] theorem State.fillSlot_timeout (s : State) (i : Index) (f : Frame) : (s.fillSlot i f).timeout = s.timeout := rfl
@[simp] theorem State.fillSlot_ev (s : State) (i : Index) (f : Frame) : (s.fillSlot i f).ev = s.ev := rfl
@[simp] theorem State.fillSlot_ie (s : State) (i : Index) (f : Frame) : (s.fillSlot i f).ie = s.ie := rfl
@[simp] theorem State.fillSlot_schedule (s : State) (i : Index) (f : Frame) : (s.fillSlot i f).schedule = s.schedule := rfl
@[simp] theorem State.fillSlot_emitted (s : State) (i : Index) (f : Frame) : (s.fillSlot i f).emitted = s.emitted := rfl
@[simp] theorem State.fillSlot_hostReads (s : State) (i : Index) (f : Frame) : (s.fillSlot i f).hostReads = s.hostReads := rfl
@[simp] theorem State.fillSlot_pkt (s : State) (i : Index) (f : Frame) :
    (s.fillSlot i f).pkt = s.pkt.set i f := rfl
@[simp] theorem State.fillSlot_pvalid (s : State) (i : Index) (f : Frame) :
    (s.fillSlot i f).pvalid = s.pvalid.set i true := rfl

/-! `encodeAxis` writes one slot, its `PVALID` bit and one `LAST`. -/

@[simp] theorem State.encodeAxis_config (s : State) (i : Index) : (s.encodeAxis i).config = s.config := rfl
@[simp] theorem State.encodeAxis_feed (s : State) (i : Index) : (s.encodeAxis i).feed = s.feed := rfl
@[simp] theorem State.encodeAxis_tgt (s : State) (i : Index) : (s.encodeAxis i).tgt = s.tgt := rfl
@[simp] theorem State.encodeAxis_gear (s : State) (i : Index) : (s.encodeAxis i).gear = s.gear := rfl
@[simp] theorem State.encodeAxis_inv (s : State) (i : Index) : (s.encodeAxis i).inv = s.inv := rfl
@[simp] theorem State.encodeAxis_init (s : State) (i : Index) : (s.encodeAxis i).init = s.init := rfl
@[simp] theorem State.encodeAxis_fin (s : State) (i : Index) : (s.encodeAxis i).fin = s.fin := rfl
@[simp] theorem State.encodeAxis_refSpeed (s : State) (i : Index) : (s.encodeAxis i).refSpeed = s.refSpeed := rfl
@[simp] theorem State.encodeAxis_fsm (s : State) (i : Index) : (s.encodeAxis i).fsm = s.fsm := rfl
@[simp] theorem State.encodeAxis_txIdx (s : State) (i : Index) : (s.encodeAxis i).txIdx = s.txIdx := rfl
@[simp] theorem State.encodeAxis_ack1 (s : State) (i : Index) : (s.encodeAxis i).ack1 = s.ack1 := rfl
@[simp] theorem State.encodeAxis_ack2 (s : State) (i : Index) : (s.encodeAxis i).ack2 = s.ack2 := rfl
@[simp] theorem State.encodeAxis_timer (s : State) (i : Index) : (s.encodeAxis i).timer = s.timer := rfl
@[simp] theorem State.encodeAxis_timeout (s : State) (i : Index) : (s.encodeAxis i).timeout = s.timeout := rfl
@[simp] theorem State.encodeAxis_ev (s : State) (i : Index) : (s.encodeAxis i).ev = s.ev := rfl
@[simp] theorem State.encodeAxis_ie (s : State) (i : Index) : (s.encodeAxis i).ie = s.ie := rfl
@[simp] theorem State.encodeAxis_schedule (s : State) (i : Index) : (s.encodeAxis i).schedule = s.schedule := rfl
@[simp] theorem State.encodeAxis_emitted (s : State) (i : Index) : (s.encodeAxis i).emitted = s.emitted := rfl
@[simp] theorem State.encodeAxis_hostReads (s : State) (i : Index) : (s.encodeAxis i).hostReads = s.hostReads := rfl
@[simp] theorem State.encodeAxis_pkt (s : State) (i : Index) :
    (s.encodeAxis i).pkt = s.pkt.set i (s.encodedFrame i) := rfl
@[simp] theorem State.encodeAxis_pvalid (s : State) (i : Index) :
    (s.encodeAxis i).pvalid = s.pvalid.set i true := rfl
@[simp] theorem State.encodeAxis_last (s : State) (i : Index) :
    (s.encodeAxis i).last = s.last.set i (BitVec.ofInt 48 (s.positionOf i)) := rfl

/-! `encodeAll` writes all slots, all `PVALID` bits and all `LAST`. -/

@[simp] theorem State.encodeAll_config (s : State) : (s.encodeAll).config = s.config := rfl
@[simp] theorem State.encodeAll_feed (s : State) : (s.encodeAll).feed = s.feed := rfl
@[simp] theorem State.encodeAll_tgt (s : State) : (s.encodeAll).tgt = s.tgt := rfl
@[simp] theorem State.encodeAll_gear (s : State) : (s.encodeAll).gear = s.gear := rfl
@[simp] theorem State.encodeAll_inv (s : State) : (s.encodeAll).inv = s.inv := rfl
@[simp] theorem State.encodeAll_init (s : State) : (s.encodeAll).init = s.init := rfl
@[simp] theorem State.encodeAll_fin (s : State) : (s.encodeAll).fin = s.fin := rfl
@[simp] theorem State.encodeAll_refSpeed (s : State) : (s.encodeAll).refSpeed = s.refSpeed := rfl
@[simp] theorem State.encodeAll_fsm (s : State) : (s.encodeAll).fsm = s.fsm := rfl
@[simp] theorem State.encodeAll_txIdx (s : State) : (s.encodeAll).txIdx = s.txIdx := rfl
@[simp] theorem State.encodeAll_ack1 (s : State) : (s.encodeAll).ack1 = s.ack1 := rfl
@[simp] theorem State.encodeAll_ack2 (s : State) : (s.encodeAll).ack2 = s.ack2 := rfl
@[simp] theorem State.encodeAll_timer (s : State) : (s.encodeAll).timer = s.timer := rfl
@[simp] theorem State.encodeAll_timeout (s : State) : (s.encodeAll).timeout = s.timeout := rfl
@[simp] theorem State.encodeAll_ev (s : State) : (s.encodeAll).ev = s.ev := rfl
@[simp] theorem State.encodeAll_ie (s : State) : (s.encodeAll).ie = s.ie := rfl
@[simp] theorem State.encodeAll_schedule (s : State) : (s.encodeAll).schedule = s.schedule := rfl
@[simp] theorem State.encodeAll_emitted (s : State) : (s.encodeAll).emitted = s.emitted := rfl
@[simp] theorem State.encodeAll_hostReads (s : State) : (s.encodeAll).hostReads = s.hostReads := rfl
@[simp] theorem State.encodeAll_pkt (s : State) : s.encodeAll.pkt = Six.ofFn s.encodedFrame := rfl
@[simp] theorem State.encodeAll_pvalid (s : State) : s.encodeAll.pvalid = Six.fill true := rfl
@[simp] theorem State.encodeAll_last (s : State) :
    s.encodeAll.last = Six.ofFn fun i => BitVec.ofInt 48 (s.positionOf i) := rfl

/-! `normalize` writes `REFSPEED` and the slots' speed bytes. -/

@[simp] theorem State.normalize_config (s : State) : (s.normalize).config = s.config := rfl
@[simp] theorem State.normalize_feed (s : State) : (s.normalize).feed = s.feed := rfl
@[simp] theorem State.normalize_tgt (s : State) : (s.normalize).tgt = s.tgt := rfl
@[simp] theorem State.normalize_gear (s : State) : (s.normalize).gear = s.gear := rfl
@[simp] theorem State.normalize_inv (s : State) : (s.normalize).inv = s.inv := rfl
@[simp] theorem State.normalize_init (s : State) : (s.normalize).init = s.init := rfl
@[simp] theorem State.normalize_last (s : State) : (s.normalize).last = s.last := rfl
@[simp] theorem State.normalize_pvalid (s : State) : (s.normalize).pvalid = s.pvalid := rfl
@[simp] theorem State.normalize_fin (s : State) : (s.normalize).fin = s.fin := rfl
@[simp] theorem State.normalize_fsm (s : State) : (s.normalize).fsm = s.fsm := rfl
@[simp] theorem State.normalize_txIdx (s : State) : (s.normalize).txIdx = s.txIdx := rfl
@[simp] theorem State.normalize_ack1 (s : State) : (s.normalize).ack1 = s.ack1 := rfl
@[simp] theorem State.normalize_ack2 (s : State) : (s.normalize).ack2 = s.ack2 := rfl
@[simp] theorem State.normalize_timer (s : State) : (s.normalize).timer = s.timer := rfl
@[simp] theorem State.normalize_timeout (s : State) : (s.normalize).timeout = s.timeout := rfl
@[simp] theorem State.normalize_ev (s : State) : (s.normalize).ev = s.ev := rfl
@[simp] theorem State.normalize_ie (s : State) : (s.normalize).ie = s.ie := rfl
@[simp] theorem State.normalize_schedule (s : State) : (s.normalize).schedule = s.schedule := rfl
@[simp] theorem State.normalize_emitted (s : State) : (s.normalize).emitted = s.emitted := rfl
@[simp] theorem State.normalize_hostReads (s : State) : (s.normalize).hostReads = s.hostReads := rfl
@[simp] theorem State.normalize_refSpeed (s : State) :
    s.normalize.refSpeed = referenceSpeed s.pkt := rfl
@[simp] theorem State.normalize_pkt (s : State) :
    s.normalize.pkt = rewriteSpeeds s.config (referenceSpeed s.pkt) s.pkt := rfl

/-! `startPacket` writes `PVALID`, `ACK`, `TXIDX`, `TIMER` and `FSM`. -/

@[simp] theorem State.startPacket_config (s : State) : (s.startPacket).config = s.config := rfl
@[simp] theorem State.startPacket_feed (s : State) : (s.startPacket).feed = s.feed := rfl
@[simp] theorem State.startPacket_tgt (s : State) : (s.startPacket).tgt = s.tgt := rfl
@[simp] theorem State.startPacket_gear (s : State) : (s.startPacket).gear = s.gear := rfl
@[simp] theorem State.startPacket_inv (s : State) : (s.startPacket).inv = s.inv := rfl
@[simp] theorem State.startPacket_init (s : State) : (s.startPacket).init = s.init := rfl
@[simp] theorem State.startPacket_last (s : State) : (s.startPacket).last = s.last := rfl
@[simp] theorem State.startPacket_pkt (s : State) : (s.startPacket).pkt = s.pkt := rfl
@[simp] theorem State.startPacket_fin (s : State) : (s.startPacket).fin = s.fin := rfl
@[simp] theorem State.startPacket_refSpeed (s : State) : (s.startPacket).refSpeed = s.refSpeed := rfl
@[simp] theorem State.startPacket_timeout (s : State) : (s.startPacket).timeout = s.timeout := rfl
@[simp] theorem State.startPacket_ev (s : State) : (s.startPacket).ev = s.ev := rfl
@[simp] theorem State.startPacket_ie (s : State) : (s.startPacket).ie = s.ie := rfl
@[simp] theorem State.startPacket_schedule (s : State) : (s.startPacket).schedule = s.schedule := rfl
@[simp] theorem State.startPacket_emitted (s : State) : (s.startPacket).emitted = s.emitted := rfl
@[simp] theorem State.startPacket_hostReads (s : State) : (s.startPacket).hostReads = s.hostReads := rfl
@[simp] theorem State.startPacket_pvalid (s : State) : s.startPacket.pvalid = Six.fill false := rfl
@[simp] theorem State.startPacket_ack1 (s : State) : s.startPacket.ack1 = .noResponse := rfl
@[simp] theorem State.startPacket_ack2 (s : State) : s.startPacket.ack2 = .noResponse := rfl
@[simp] theorem State.startPacket_txIdx (s : State) : s.startPacket.txIdx = 0 := rfl
@[simp] theorem State.startPacket_timer (s : State) : s.startPacket.timer = 0 := rfl
@[simp] theorem State.startPacket_fsm (s : State) : s.startPacket.fsm = .sending := rfl

/-! `clearValid` writes `PVALID`; `clearLast` writes `LAST`. -/

@[simp] theorem State.clearValid_config (s : State) : (s.clearValid).config = s.config := rfl
@[simp] theorem State.clearValid_feed (s : State) : (s.clearValid).feed = s.feed := rfl
@[simp] theorem State.clearValid_tgt (s : State) : (s.clearValid).tgt = s.tgt := rfl
@[simp] theorem State.clearValid_gear (s : State) : (s.clearValid).gear = s.gear := rfl
@[simp] theorem State.clearValid_inv (s : State) : (s.clearValid).inv = s.inv := rfl
@[simp] theorem State.clearValid_init (s : State) : (s.clearValid).init = s.init := rfl
@[simp] theorem State.clearValid_last (s : State) : (s.clearValid).last = s.last := rfl
@[simp] theorem State.clearValid_pkt (s : State) : (s.clearValid).pkt = s.pkt := rfl
@[simp] theorem State.clearValid_fin (s : State) : (s.clearValid).fin = s.fin := rfl
@[simp] theorem State.clearValid_refSpeed (s : State) : (s.clearValid).refSpeed = s.refSpeed := rfl
@[simp] theorem State.clearValid_fsm (s : State) : (s.clearValid).fsm = s.fsm := rfl
@[simp] theorem State.clearValid_txIdx (s : State) : (s.clearValid).txIdx = s.txIdx := rfl
@[simp] theorem State.clearValid_ack1 (s : State) : (s.clearValid).ack1 = s.ack1 := rfl
@[simp] theorem State.clearValid_ack2 (s : State) : (s.clearValid).ack2 = s.ack2 := rfl
@[simp] theorem State.clearValid_timer (s : State) : (s.clearValid).timer = s.timer := rfl
@[simp] theorem State.clearValid_timeout (s : State) : (s.clearValid).timeout = s.timeout := rfl
@[simp] theorem State.clearValid_ev (s : State) : (s.clearValid).ev = s.ev := rfl
@[simp] theorem State.clearValid_ie (s : State) : (s.clearValid).ie = s.ie := rfl
@[simp] theorem State.clearValid_schedule (s : State) : (s.clearValid).schedule = s.schedule := rfl
@[simp] theorem State.clearValid_emitted (s : State) : (s.clearValid).emitted = s.emitted := rfl
@[simp] theorem State.clearValid_hostReads (s : State) : (s.clearValid).hostReads = s.hostReads := rfl
@[simp] theorem State.clearValid_pvalid (s : State) : s.clearValid.pvalid = Six.fill false := rfl
@[simp] theorem State.clearLast_config (s : State) : (s.clearLast).config = s.config := rfl
@[simp] theorem State.clearLast_feed (s : State) : (s.clearLast).feed = s.feed := rfl
@[simp] theorem State.clearLast_tgt (s : State) : (s.clearLast).tgt = s.tgt := rfl
@[simp] theorem State.clearLast_gear (s : State) : (s.clearLast).gear = s.gear := rfl
@[simp] theorem State.clearLast_inv (s : State) : (s.clearLast).inv = s.inv := rfl
@[simp] theorem State.clearLast_init (s : State) : (s.clearLast).init = s.init := rfl
@[simp] theorem State.clearLast_pkt (s : State) : (s.clearLast).pkt = s.pkt := rfl
@[simp] theorem State.clearLast_pvalid (s : State) : (s.clearLast).pvalid = s.pvalid := rfl
@[simp] theorem State.clearLast_fin (s : State) : (s.clearLast).fin = s.fin := rfl
@[simp] theorem State.clearLast_refSpeed (s : State) : (s.clearLast).refSpeed = s.refSpeed := rfl
@[simp] theorem State.clearLast_fsm (s : State) : (s.clearLast).fsm = s.fsm := rfl
@[simp] theorem State.clearLast_txIdx (s : State) : (s.clearLast).txIdx = s.txIdx := rfl
@[simp] theorem State.clearLast_ack1 (s : State) : (s.clearLast).ack1 = s.ack1 := rfl
@[simp] theorem State.clearLast_ack2 (s : State) : (s.clearLast).ack2 = s.ack2 := rfl
@[simp] theorem State.clearLast_timer (s : State) : (s.clearLast).timer = s.timer := rfl
@[simp] theorem State.clearLast_timeout (s : State) : (s.clearLast).timeout = s.timeout := rfl
@[simp] theorem State.clearLast_ev (s : State) : (s.clearLast).ev = s.ev := rfl
@[simp] theorem State.clearLast_ie (s : State) : (s.clearLast).ie = s.ie := rfl
@[simp] theorem State.clearLast_schedule (s : State) : (s.clearLast).schedule = s.schedule := rfl
@[simp] theorem State.clearLast_emitted (s : State) : (s.clearLast).emitted = s.emitted := rfl
@[simp] theorem State.clearLast_hostReads (s : State) : (s.clearLast).hostReads = s.hostReads := rfl
@[simp] theorem State.clearLast_last (s : State) : s.clearLast.last = Six.fill 0 := rfl

/-! `transmit` writes `emitted`, `TXIDX`, and after slot 5 `FSM` and `TIMER`. -/

@[simp] theorem State.transmit_config (s : State) (i : Index) (f : Frame) : (s.transmit i f).config = s.config := by
  unfold State.transmit; split <;> rfl
@[simp] theorem State.transmit_feed (s : State) (i : Index) (f : Frame) : (s.transmit i f).feed = s.feed := by
  unfold State.transmit; split <;> rfl
@[simp] theorem State.transmit_tgt (s : State) (i : Index) (f : Frame) : (s.transmit i f).tgt = s.tgt := by
  unfold State.transmit; split <;> rfl
@[simp] theorem State.transmit_gear (s : State) (i : Index) (f : Frame) : (s.transmit i f).gear = s.gear := by
  unfold State.transmit; split <;> rfl
@[simp] theorem State.transmit_inv (s : State) (i : Index) (f : Frame) : (s.transmit i f).inv = s.inv := by
  unfold State.transmit; split <;> rfl
@[simp] theorem State.transmit_init (s : State) (i : Index) (f : Frame) : (s.transmit i f).init = s.init := by
  unfold State.transmit; split <;> rfl
@[simp] theorem State.transmit_last (s : State) (i : Index) (f : Frame) : (s.transmit i f).last = s.last := by
  unfold State.transmit; split <;> rfl
@[simp] theorem State.transmit_pkt (s : State) (i : Index) (f : Frame) : (s.transmit i f).pkt = s.pkt := by
  unfold State.transmit; split <;> rfl
@[simp] theorem State.transmit_pvalid (s : State) (i : Index) (f : Frame) : (s.transmit i f).pvalid = s.pvalid := by
  unfold State.transmit; split <;> rfl
@[simp] theorem State.transmit_fin (s : State) (i : Index) (f : Frame) : (s.transmit i f).fin = s.fin := by
  unfold State.transmit; split <;> rfl
@[simp] theorem State.transmit_refSpeed (s : State) (i : Index) (f : Frame) : (s.transmit i f).refSpeed = s.refSpeed := by
  unfold State.transmit; split <;> rfl
@[simp] theorem State.transmit_ack1 (s : State) (i : Index) (f : Frame) : (s.transmit i f).ack1 = s.ack1 := by
  unfold State.transmit; split <;> rfl
@[simp] theorem State.transmit_ack2 (s : State) (i : Index) (f : Frame) : (s.transmit i f).ack2 = s.ack2 := by
  unfold State.transmit; split <;> rfl
@[simp] theorem State.transmit_timeout (s : State) (i : Index) (f : Frame) : (s.transmit i f).timeout = s.timeout := by
  unfold State.transmit; split <;> rfl
@[simp] theorem State.transmit_ev (s : State) (i : Index) (f : Frame) : (s.transmit i f).ev = s.ev := by
  unfold State.transmit; split <;> rfl
@[simp] theorem State.transmit_ie (s : State) (i : Index) (f : Frame) : (s.transmit i f).ie = s.ie := by
  unfold State.transmit; split <;> rfl
@[simp] theorem State.transmit_schedule (s : State) (i : Index) (f : Frame) : (s.transmit i f).schedule = s.schedule := by
  unfold State.transmit; split <;> rfl
@[simp] theorem State.transmit_hostReads (s : State) (i : Index) (f : Frame) : (s.transmit i f).hostReads = s.hostReads := by
  unfold State.transmit; split <;> rfl
@[simp] theorem State.transmit_emitted (s : State) (i : Index) (f : Frame) :
    (s.transmit i f).emitted = s.emitted ++ [marshal f] := by
  unfold State.transmit; split <;> rfl
@[simp] theorem State.transmit_txIdx (s : State) (i : Index) (f : Frame) :
    (s.transmit i f).txIdx = i.succ := by
  unfold State.transmit; split <;> rfl

/-! `txAcc` writes what `transmit` writes. -/

@[simp] theorem State.txAcc_config (s : State) : (s.txAcc).config = s.config := by
  unfold State.txAcc; split <;> simp
@[simp] theorem State.txAcc_feed (s : State) : (s.txAcc).feed = s.feed := by
  unfold State.txAcc; split <;> simp
@[simp] theorem State.txAcc_tgt (s : State) : (s.txAcc).tgt = s.tgt := by
  unfold State.txAcc; split <;> simp
@[simp] theorem State.txAcc_gear (s : State) : (s.txAcc).gear = s.gear := by
  unfold State.txAcc; split <;> simp
@[simp] theorem State.txAcc_inv (s : State) : (s.txAcc).inv = s.inv := by
  unfold State.txAcc; split <;> simp
@[simp] theorem State.txAcc_init (s : State) : (s.txAcc).init = s.init := by
  unfold State.txAcc; split <;> simp
@[simp] theorem State.txAcc_last (s : State) : (s.txAcc).last = s.last := by
  unfold State.txAcc; split <;> simp
@[simp] theorem State.txAcc_pkt (s : State) : (s.txAcc).pkt = s.pkt := by
  unfold State.txAcc; split <;> simp
@[simp] theorem State.txAcc_pvalid (s : State) : (s.txAcc).pvalid = s.pvalid := by
  unfold State.txAcc; split <;> simp
@[simp] theorem State.txAcc_fin (s : State) : (s.txAcc).fin = s.fin := by
  unfold State.txAcc; split <;> simp
@[simp] theorem State.txAcc_refSpeed (s : State) : (s.txAcc).refSpeed = s.refSpeed := by
  unfold State.txAcc; split <;> simp
@[simp] theorem State.txAcc_ack1 (s : State) : (s.txAcc).ack1 = s.ack1 := by
  unfold State.txAcc; split <;> simp
@[simp] theorem State.txAcc_ack2 (s : State) : (s.txAcc).ack2 = s.ack2 := by
  unfold State.txAcc; split <;> simp
@[simp] theorem State.txAcc_timeout (s : State) : (s.txAcc).timeout = s.timeout := by
  unfold State.txAcc; split <;> simp
@[simp] theorem State.txAcc_ev (s : State) : (s.txAcc).ev = s.ev := by
  unfold State.txAcc; split <;> simp
@[simp] theorem State.txAcc_ie (s : State) : (s.txAcc).ie = s.ie := by
  unfold State.txAcc; split <;> simp
@[simp] theorem State.txAcc_schedule (s : State) : (s.txAcc).schedule = s.schedule := by
  unfold State.txAcc; split <;> simp
@[simp] theorem State.txAcc_hostReads (s : State) : (s.txAcc).hostReads = s.hostReads := by
  unfold State.txAcc; split <;> simp

/-! `resolve` writes `FSM` and `EV`. -/

@[simp] theorem State.resolve_config (s : State) : (s.resolve).config = s.config := by
  unfold State.resolve; split <;> rfl
@[simp] theorem State.resolve_feed (s : State) : (s.resolve).feed = s.feed := by
  unfold State.resolve; split <;> rfl
@[simp] theorem State.resolve_tgt (s : State) : (s.resolve).tgt = s.tgt := by
  unfold State.resolve; split <;> rfl
@[simp] theorem State.resolve_gear (s : State) : (s.resolve).gear = s.gear := by
  unfold State.resolve; split <;> rfl
@[simp] theorem State.resolve_inv (s : State) : (s.resolve).inv = s.inv := by
  unfold State.resolve; split <;> rfl
@[simp] theorem State.resolve_init (s : State) : (s.resolve).init = s.init := by
  unfold State.resolve; split <;> rfl
@[simp] theorem State.resolve_last (s : State) : (s.resolve).last = s.last := by
  unfold State.resolve; split <;> rfl
@[simp] theorem State.resolve_pkt (s : State) : (s.resolve).pkt = s.pkt := by
  unfold State.resolve; split <;> rfl
@[simp] theorem State.resolve_pvalid (s : State) : (s.resolve).pvalid = s.pvalid := by
  unfold State.resolve; split <;> rfl
@[simp] theorem State.resolve_fin (s : State) : (s.resolve).fin = s.fin := by
  unfold State.resolve; split <;> rfl
@[simp] theorem State.resolve_refSpeed (s : State) : (s.resolve).refSpeed = s.refSpeed := by
  unfold State.resolve; split <;> rfl
@[simp] theorem State.resolve_txIdx (s : State) : (s.resolve).txIdx = s.txIdx := by
  unfold State.resolve; split <;> rfl
@[simp] theorem State.resolve_ack1 (s : State) : (s.resolve).ack1 = s.ack1 := by
  unfold State.resolve; split <;> rfl
@[simp] theorem State.resolve_ack2 (s : State) : (s.resolve).ack2 = s.ack2 := by
  unfold State.resolve; split <;> rfl
@[simp] theorem State.resolve_timer (s : State) : (s.resolve).timer = s.timer := by
  unfold State.resolve; split <;> rfl
@[simp] theorem State.resolve_timeout (s : State) : (s.resolve).timeout = s.timeout := by
  unfold State.resolve; split <;> rfl
@[simp] theorem State.resolve_ie (s : State) : (s.resolve).ie = s.ie := by
  unfold State.resolve; split <;> rfl
@[simp] theorem State.resolve_schedule (s : State) : (s.resolve).schedule = s.schedule := by
  unfold State.resolve; split <;> rfl
@[simp] theorem State.resolve_emitted (s : State) : (s.resolve).emitted = s.emitted := by
  unfold State.resolve; split <;> rfl
@[simp] theorem State.resolve_hostReads (s : State) : (s.resolve).hostReads = s.hostReads := by
  unfold State.resolve; split <;> rfl

/-! `recordAck` and `receive` write `ACK`, `FSM` and `EV`. -/

@[simp] theorem State.recordAck_config (s : State) (id : BitVec 11) (st : AckStatus) : (s.recordAck id st).config = s.config := by
  unfold State.recordAck; split_ifs <;> simp
@[simp] theorem State.recordAck_feed (s : State) (id : BitVec 11) (st : AckStatus) : (s.recordAck id st).feed = s.feed := by
  unfold State.recordAck; split_ifs <;> simp
@[simp] theorem State.recordAck_tgt (s : State) (id : BitVec 11) (st : AckStatus) : (s.recordAck id st).tgt = s.tgt := by
  unfold State.recordAck; split_ifs <;> simp
@[simp] theorem State.recordAck_gear (s : State) (id : BitVec 11) (st : AckStatus) : (s.recordAck id st).gear = s.gear := by
  unfold State.recordAck; split_ifs <;> simp
@[simp] theorem State.recordAck_inv (s : State) (id : BitVec 11) (st : AckStatus) : (s.recordAck id st).inv = s.inv := by
  unfold State.recordAck; split_ifs <;> simp
@[simp] theorem State.recordAck_init (s : State) (id : BitVec 11) (st : AckStatus) : (s.recordAck id st).init = s.init := by
  unfold State.recordAck; split_ifs <;> simp
@[simp] theorem State.recordAck_last (s : State) (id : BitVec 11) (st : AckStatus) : (s.recordAck id st).last = s.last := by
  unfold State.recordAck; split_ifs <;> simp
@[simp] theorem State.recordAck_pkt (s : State) (id : BitVec 11) (st : AckStatus) : (s.recordAck id st).pkt = s.pkt := by
  unfold State.recordAck; split_ifs <;> simp
@[simp] theorem State.recordAck_pvalid (s : State) (id : BitVec 11) (st : AckStatus) : (s.recordAck id st).pvalid = s.pvalid := by
  unfold State.recordAck; split_ifs <;> simp
@[simp] theorem State.recordAck_fin (s : State) (id : BitVec 11) (st : AckStatus) : (s.recordAck id st).fin = s.fin := by
  unfold State.recordAck; split_ifs <;> simp
@[simp] theorem State.recordAck_refSpeed (s : State) (id : BitVec 11) (st : AckStatus) : (s.recordAck id st).refSpeed = s.refSpeed := by
  unfold State.recordAck; split_ifs <;> simp
@[simp] theorem State.recordAck_txIdx (s : State) (id : BitVec 11) (st : AckStatus) : (s.recordAck id st).txIdx = s.txIdx := by
  unfold State.recordAck; split_ifs <;> simp
@[simp] theorem State.recordAck_timer (s : State) (id : BitVec 11) (st : AckStatus) : (s.recordAck id st).timer = s.timer := by
  unfold State.recordAck; split_ifs <;> simp
@[simp] theorem State.recordAck_timeout (s : State) (id : BitVec 11) (st : AckStatus) : (s.recordAck id st).timeout = s.timeout := by
  unfold State.recordAck; split_ifs <;> simp
@[simp] theorem State.recordAck_ie (s : State) (id : BitVec 11) (st : AckStatus) : (s.recordAck id st).ie = s.ie := by
  unfold State.recordAck; split_ifs <;> simp
@[simp] theorem State.recordAck_schedule (s : State) (id : BitVec 11) (st : AckStatus) : (s.recordAck id st).schedule = s.schedule := by
  unfold State.recordAck; split_ifs <;> simp
@[simp] theorem State.recordAck_emitted (s : State) (id : BitVec 11) (st : AckStatus) : (s.recordAck id st).emitted = s.emitted := by
  unfold State.recordAck; split_ifs <;> simp
@[simp] theorem State.recordAck_hostReads (s : State) (id : BitVec 11) (st : AckStatus) : (s.recordAck id st).hostReads = s.hostReads := by
  unfold State.recordAck; split_ifs <;> simp
@[simp] theorem State.receive_config (s : State) (f : RxFrame) : (s.receive f).config = s.config := by
  unfold State.receive; repeat' split
  all_goals simp
@[simp] theorem State.receive_feed (s : State) (f : RxFrame) : (s.receive f).feed = s.feed := by
  unfold State.receive; repeat' split
  all_goals simp
@[simp] theorem State.receive_tgt (s : State) (f : RxFrame) : (s.receive f).tgt = s.tgt := by
  unfold State.receive; repeat' split
  all_goals simp
@[simp] theorem State.receive_gear (s : State) (f : RxFrame) : (s.receive f).gear = s.gear := by
  unfold State.receive; repeat' split
  all_goals simp
@[simp] theorem State.receive_inv (s : State) (f : RxFrame) : (s.receive f).inv = s.inv := by
  unfold State.receive; repeat' split
  all_goals simp
@[simp] theorem State.receive_init (s : State) (f : RxFrame) : (s.receive f).init = s.init := by
  unfold State.receive; repeat' split
  all_goals simp
@[simp] theorem State.receive_last (s : State) (f : RxFrame) : (s.receive f).last = s.last := by
  unfold State.receive; repeat' split
  all_goals simp
@[simp] theorem State.receive_pkt (s : State) (f : RxFrame) : (s.receive f).pkt = s.pkt := by
  unfold State.receive; repeat' split
  all_goals simp
@[simp] theorem State.receive_pvalid (s : State) (f : RxFrame) : (s.receive f).pvalid = s.pvalid := by
  unfold State.receive; repeat' split
  all_goals simp
@[simp] theorem State.receive_fin (s : State) (f : RxFrame) : (s.receive f).fin = s.fin := by
  unfold State.receive; repeat' split
  all_goals simp
@[simp] theorem State.receive_refSpeed (s : State) (f : RxFrame) : (s.receive f).refSpeed = s.refSpeed := by
  unfold State.receive; repeat' split
  all_goals simp
@[simp] theorem State.receive_txIdx (s : State) (f : RxFrame) : (s.receive f).txIdx = s.txIdx := by
  unfold State.receive; repeat' split
  all_goals simp
@[simp] theorem State.receive_timer (s : State) (f : RxFrame) : (s.receive f).timer = s.timer := by
  unfold State.receive; repeat' split
  all_goals simp
@[simp] theorem State.receive_timeout (s : State) (f : RxFrame) : (s.receive f).timeout = s.timeout := by
  unfold State.receive; repeat' split
  all_goals simp
@[simp] theorem State.receive_ie (s : State) (f : RxFrame) : (s.receive f).ie = s.ie := by
  unfold State.receive; repeat' split
  all_goals simp
@[simp] theorem State.receive_schedule (s : State) (f : RxFrame) : (s.receive f).schedule = s.schedule := by
  unfold State.receive; repeat' split
  all_goals simp
@[simp] theorem State.receive_emitted (s : State) (f : RxFrame) : (s.receive f).emitted = s.emitted := by
  unfold State.receive; repeat' split
  all_goals simp
@[simp] theorem State.receive_hostReads (s : State) (f : RxFrame) : (s.receive f).hostReads = s.hostReads := by
  unfold State.receive; repeat' split
  all_goals simp

/-! `tick` writes `TIMER`, `FSM` and `EV`. -/

@[simp] theorem State.tick_config (s : State) : (s.tick).config = s.config := by
  unfold State.tick; dsimp only; split_ifs <;> rfl
@[simp] theorem State.tick_feed (s : State) : (s.tick).feed = s.feed := by
  unfold State.tick; dsimp only; split_ifs <;> rfl
@[simp] theorem State.tick_tgt (s : State) : (s.tick).tgt = s.tgt := by
  unfold State.tick; dsimp only; split_ifs <;> rfl
@[simp] theorem State.tick_gear (s : State) : (s.tick).gear = s.gear := by
  unfold State.tick; dsimp only; split_ifs <;> rfl
@[simp] theorem State.tick_inv (s : State) : (s.tick).inv = s.inv := by
  unfold State.tick; dsimp only; split_ifs <;> rfl
@[simp] theorem State.tick_init (s : State) : (s.tick).init = s.init := by
  unfold State.tick; dsimp only; split_ifs <;> rfl
@[simp] theorem State.tick_last (s : State) : (s.tick).last = s.last := by
  unfold State.tick; dsimp only; split_ifs <;> rfl
@[simp] theorem State.tick_pkt (s : State) : (s.tick).pkt = s.pkt := by
  unfold State.tick; dsimp only; split_ifs <;> rfl
@[simp] theorem State.tick_pvalid (s : State) : (s.tick).pvalid = s.pvalid := by
  unfold State.tick; dsimp only; split_ifs <;> rfl
@[simp] theorem State.tick_fin (s : State) : (s.tick).fin = s.fin := by
  unfold State.tick; dsimp only; split_ifs <;> rfl
@[simp] theorem State.tick_refSpeed (s : State) : (s.tick).refSpeed = s.refSpeed := by
  unfold State.tick; dsimp only; split_ifs <;> rfl
@[simp] theorem State.tick_txIdx (s : State) : (s.tick).txIdx = s.txIdx := by
  unfold State.tick; dsimp only; split_ifs <;> rfl
@[simp] theorem State.tick_ack1 (s : State) : (s.tick).ack1 = s.ack1 := by
  unfold State.tick; dsimp only; split_ifs <;> rfl
@[simp] theorem State.tick_ack2 (s : State) : (s.tick).ack2 = s.ack2 := by
  unfold State.tick; dsimp only; split_ifs <;> rfl
@[simp] theorem State.tick_timeout (s : State) : (s.tick).timeout = s.timeout := by
  unfold State.tick; dsimp only; split_ifs <;> rfl
@[simp] theorem State.tick_ie (s : State) : (s.tick).ie = s.ie := by
  unfold State.tick; dsimp only; split_ifs <;> rfl
@[simp] theorem State.tick_schedule (s : State) : (s.tick).schedule = s.schedule := by
  unfold State.tick; dsimp only; split_ifs <;> rfl
@[simp] theorem State.tick_emitted (s : State) : (s.tick).emitted = s.emitted := by
  unfold State.tick; dsimp only; split_ifs <;> rfl
@[simp] theorem State.tick_hostReads (s : State) : (s.tick).hostReads = s.hostReads := by
  unfold State.tick; dsimp only; split_ifs <;> rfl

/-! `regWrite` writes no state of the sequencer, no slot, no `LAST`, no `INIT` and nothing of the model's own. -/

@[simp] theorem State.regWrite_config (s : State) (r : HostReg) (v : Word) : (s.regWrite r v).config = s.config := by
  cases r <;> rfl
@[simp] theorem State.regWrite_init (s : State) (r : HostReg) (v : Word) : (s.regWrite r v).init = s.init := by
  cases r <;> rfl
@[simp] theorem State.regWrite_last (s : State) (r : HostReg) (v : Word) : (s.regWrite r v).last = s.last := by
  cases r <;> rfl
@[simp] theorem State.regWrite_pkt (s : State) (r : HostReg) (v : Word) : (s.regWrite r v).pkt = s.pkt := by
  cases r <;> rfl
@[simp] theorem State.regWrite_pvalid (s : State) (r : HostReg) (v : Word) : (s.regWrite r v).pvalid = s.pvalid := by
  cases r <;> rfl
@[simp] theorem State.regWrite_refSpeed (s : State) (r : HostReg) (v : Word) : (s.regWrite r v).refSpeed = s.refSpeed := by
  cases r <;> rfl
@[simp] theorem State.regWrite_fsm (s : State) (r : HostReg) (v : Word) : (s.regWrite r v).fsm = s.fsm := by
  cases r <;> rfl
@[simp] theorem State.regWrite_txIdx (s : State) (r : HostReg) (v : Word) : (s.regWrite r v).txIdx = s.txIdx := by
  cases r <;> rfl
@[simp] theorem State.regWrite_ack1 (s : State) (r : HostReg) (v : Word) : (s.regWrite r v).ack1 = s.ack1 := by
  cases r <;> rfl
@[simp] theorem State.regWrite_ack2 (s : State) (r : HostReg) (v : Word) : (s.regWrite r v).ack2 = s.ack2 := by
  cases r <;> rfl
@[simp] theorem State.regWrite_timer (s : State) (r : HostReg) (v : Word) : (s.regWrite r v).timer = s.timer := by
  cases r <;> rfl
@[simp] theorem State.regWrite_schedule (s : State) (r : HostReg) (v : Word) : (s.regWrite r v).schedule = s.schedule := by
  cases r <;> rfl
@[simp] theorem State.regWrite_emitted (s : State) (r : HostReg) (v : Word) : (s.regWrite r v).emitted = s.emitted := by
  cases r <;> rfl
@[simp] theorem State.regWrite_hostReads (s : State) (r : HostReg) (v : Word) : (s.regWrite r v).hostReads = s.hostReads := by
  cases r <;> rfl

/-! `hardwareReset` keeps what is outside the block. -/

@[simp] theorem State.hardwareReset_config (s : State) :
    s.hardwareReset.config = s.config := rfl
@[simp] theorem State.hardwareReset_feed (s : State) :
    s.hardwareReset.feed = State.reset.feed := rfl
@[simp] theorem State.hardwareReset_tgt (s : State) :
    s.hardwareReset.tgt = State.reset.tgt := rfl
@[simp] theorem State.hardwareReset_gear (s : State) :
    s.hardwareReset.gear = State.reset.gear := rfl
@[simp] theorem State.hardwareReset_inv (s : State) :
    s.hardwareReset.inv = State.reset.inv := rfl
@[simp] theorem State.hardwareReset_init (s : State) :
    s.hardwareReset.init = State.reset.init := rfl
@[simp] theorem State.hardwareReset_last (s : State) :
    s.hardwareReset.last = State.reset.last := rfl
@[simp] theorem State.hardwareReset_pkt (s : State) :
    s.hardwareReset.pkt = State.reset.pkt := rfl
@[simp] theorem State.hardwareReset_pvalid (s : State) :
    s.hardwareReset.pvalid = State.reset.pvalid := rfl
@[simp] theorem State.hardwareReset_fin (s : State) :
    s.hardwareReset.fin = State.reset.fin := rfl
@[simp] theorem State.hardwareReset_refSpeed (s : State) :
    s.hardwareReset.refSpeed = State.reset.refSpeed := rfl
@[simp] theorem State.hardwareReset_fsm (s : State) :
    s.hardwareReset.fsm = State.reset.fsm := rfl
@[simp] theorem State.hardwareReset_txIdx (s : State) :
    s.hardwareReset.txIdx = State.reset.txIdx := rfl
@[simp] theorem State.hardwareReset_ack1 (s : State) :
    s.hardwareReset.ack1 = State.reset.ack1 := rfl
@[simp] theorem State.hardwareReset_ack2 (s : State) :
    s.hardwareReset.ack2 = State.reset.ack2 := rfl
@[simp] theorem State.hardwareReset_timer (s : State) :
    s.hardwareReset.timer = State.reset.timer := rfl
@[simp] theorem State.hardwareReset_timeout (s : State) :
    s.hardwareReset.timeout = State.reset.timeout := rfl
@[simp] theorem State.hardwareReset_ev (s : State) :
    s.hardwareReset.ev = State.reset.ev := rfl
@[simp] theorem State.hardwareReset_ie (s : State) :
    s.hardwareReset.ie = State.reset.ie := rfl
@[simp] theorem State.hardwareReset_schedule (s : State) :
    s.hardwareReset.schedule = s.schedule := rfl
@[simp] theorem State.hardwareReset_emitted (s : State) :
    s.hardwareReset.emitted = s.emitted := rfl
@[simp] theorem State.hardwareReset_hostReads (s : State) :
    s.hardwareReset.hostReads = s.hostReads := rfl

end Sys2Proof.Machine
end

