-- ==== Sys2Proof/Laws/Ops.lean ====
section
/-! SUPPORT. What each shared operation can do, said once. -/

namespace Sys2Proof.Machine

/-! Operands. -/

theorem axisOperand_eq_some (a : Byte) (i : Index) :
    axisOperand a = some i ↔ a.toNat = i.val + 1 := by
  have := i.isLt
  unfold axisOperand
  split
  · simp only [Option.some.injEq, Fin.ext_iff]; omega
  · simp only [reduceCtorEq, false_iff]; omega

theorem axisOperand_eq_none (a : Byte) : axisOperand a = none ↔ a.toNat = 0 ∨ 7 ≤ a.toNat := by
  unfold axisOperand
  split <;> simp <;> omega

@[simp] theorem axisOperand_axisId (i : Index) : axisOperand (axisId i) = some i := by
  fin_cases i <;> rfl

theorem slotOperand_eq_some (a : Byte) (i : Index) : slotOperand a = some i ↔ a.toNat = i.val := by
  have := i.isLt
  unfold slotOperand
  split
  · simp only [Option.some.injEq, Fin.ext_iff]
  · simp only [reduceCtorEq, false_iff]; omega

theorem slotOperand_eq_none (a : Byte) : slotOperand a = none ↔ 6 ≤ a.toNat := by
  unfold slotOperand
  split <;> simp <;> omega

theorem slotOf_eq_some (k : Fin 7) (i : Index) : slotOf k = some i ↔ k.val = i.val := by
  unfold slotOf
  split
  · simp only [Option.some.injEq, Fin.ext_iff]
  · simp only [reduceCtorEq, false_iff]; omega

theorem slotOf_eq_none (k : Fin 7) : slotOf k = none ↔ k.val = 6 := by
  unfold slotOf
  split <;> simp <;> omega

/-! Host write checks. -/

theorem State.unlessBusy_cases (s t : State) :
    (s.busy = true ∧ s.unlessBusy t = s.raise .busy) ∨ (s.busy = false ∧ s.unlessBusy t = t) := by
  unfold State.unlessBusy
  cases s.busy <;> simp

@[simp] theorem State.unlessBusy_of_busy {s : State} (t : State) (h : s.busy = true) :
    s.unlessBusy t = s.raise .busy := by simp [State.unlessBusy, h]

@[simp] theorem State.unlessBusy_of_not_busy {s : State} (t : State) (h : s.busy = false) :
    s.unlessBusy t = t := by simp [State.unlessBusy, h]

@[simp] theorem State.ifComplete_of_complete {s : State} (t : State) (h : s.pvalid.allTrue = true) :
    s.ifComplete t = t := by simp [State.ifComplete, h]

@[simp] theorem State.ifComplete_of_incomplete {s : State} (t : State)
    (h : s.pvalid.allTrue = false) : s.ifComplete t = s.raise .pkt := by simp [State.ifComplete, h]

theorem State.busy_iff (s : State) : s.busy = true ↔ s.fsm = .sending ∨ s.fsm = .awaitingAck := by
  unfold State.busy
  cases s.fsm <;> simp [Fsm.busy]

/-! The sequencer. -/

theorem State.presentedSlot_eq_some (s : State) (i : Index) :
    s.presentedSlot = some i ↔ s.fsm = .sending ∧ s.txIdx.val = i.val := by
  unfold State.presentedSlot
  split
  · next h => simp [h, slotOf_eq_some]
  · next h => simp [h]

theorem State.presentedSlot_eq_none (s : State) :
    s.presentedSlot = none ↔ s.fsm = .sending → s.txIdx.val = 6 := by
  unfold State.presentedSlot
  split
  · next h => simp [h, slotOf_eq_none]
  · next h => simp [h]

theorem State.transmit_last_slot (s : State) (i : Index) (f : Frame) (h : i.val = 5) :
    (s.transmit i f).fsm = .awaitingAck ∧ (s.transmit i f).timer = 0 := by
  simp [State.transmit, h]

theorem State.transmit_earlier_slot (s : State) (i : Index) (f : Frame) (h : i.val ≠ 5) :
    (s.transmit i f).fsm = s.fsm ∧ (s.transmit i f).timer = s.timer := by
  simp [State.transmit, h]

theorem State.txAcc_of_presented {s : State} {i : Index} (h : s.presentedSlot = some i) :
    s.txAcc = s.transmit i (s.pkt.get i) := by simp [State.txAcc, h]

theorem State.txAcc_of_none {s : State} (h : s.presentedSlot = none) : s.txAcc = s := by
  simp [State.txAcc, h]

theorem State.resolve_cases (s : State) :
    (s.bothDone = true ∧ s.resolve = { s with fsm := .satisfied, ev := { s.ev with sat := true } })
      ∨ (s.bothDone = false ∧ s.resolve = s) := by
  unfold State.resolve
  cases s.bothDone <;> simp

/-- The status a frame carries, by its second byte. -/
theorem statusOf_cases (f : RxFrame) :
    (f.data[1]? = some 1 ∧ statusOf f = some .status1)
      ∨ (f.data[1]? = some 2 ∧ statusOf f = some .status2)
      ∨ (f.data[1]? ≠ some 1 ∧ f.data[1]? ≠ some 2 ∧ statusOf f = none) := by
  obtain ⟨id, data, h8⟩ := f
  rcases data with _ | ⟨x, _ | ⟨b, l⟩⟩
  · simp [statusOf]
  · simp [statusOf]
  · by_cases h1 : b = 1
    · subst h1; simp [statusOf, ackStatusOf]
    · by_cases h2 : b = 2
      · subst h2; simp [statusOf, ackStatusOf]
      · exact .inr (.inr ⟨by simpa using h1, by simpa using h2, by
          simp only [statusOf, ackStatusOf]; rw [if_neg h1, if_neg h2]⟩)

/-- Everything an `RX` step can do: nothing, or one of the two responders' status recorded and the
packet possibly resolved. -/
theorem State.receive_cases (s : State) (f : RxFrame) :
    s.receive f = s
      ∨ ∃ st, s.fsm = .awaitingAck ∧ statusOf f = some st ∧
          ((f.id = 1 ∧ s.receive f = State.resolve { s with ack1 := st })
            ∨ (f.id = 2 ∧ s.receive f = State.resolve { s with ack2 := st })) := by
  unfold State.receive
  split
  · next h =>
    cases hst : statusOf f with
    | none => simp
    | some st =>
      simp only [State.recordAck]
      split_ifs with h1 h2
      · exact .inr ⟨st, h, rfl, .inl ⟨h1, rfl⟩⟩
      · exact .inr ⟨st, h, rfl, .inr ⟨h2, rfl⟩⟩
      · exact .inl rfl
  · exact .inl rfl

/-- Everything a `TICK` step can do: nothing, one tick counted, or the packet timed out. -/
theorem State.tick_cases (s : State) :
    (s.fsm ≠ .awaitingAck ∧ s.tick = s)
      ∨ (s.fsm = .awaitingAck ∧ s.timer.toNat + 1 ≤ s.timeout.toNat ∧
          s.tick = { s with timer := s.timer + 1 })
      ∨ (s.fsm = .awaitingAck ∧ s.timeout.toNat < s.timer.toNat + 1 ∧
          s.tick = { s with timer := s.timer + 1, fsm := .timedOut
                            ev := { s.ev with timedOut := true } }) := by
  unfold State.tick
  by_cases h : s.fsm = .awaitingAck
  · by_cases ht : s.timer.toNat + 1 > s.timeout.toNat
    · exact .inr (.inr ⟨h, ht, by rw [if_pos h]; dsimp only; rw [if_pos ht]⟩)
    · exact .inr (.inl ⟨h, by omega, by rw [if_pos h]; dsimp only; rw [if_neg ht]⟩)
  · simp [h]

/-! The speed synchroniser. -/

/-- The default `SPEED_NORM` is the identity where it is applied (42_speed_sync.md R174). -/
theorem speedNormExact_eq (speed ref : BitVec 16) (h : ref ≠ 0) : speedNormExact speed ref = speed := by
  have hr : 0 < ref.toNat := by
    rcases Nat.eq_zero_or_pos ref.toNat with h0 | h0
    · exact absurd (BitVec.eq_of_toNat_eq (by simpa using h0)) h
    · exact h0
  simp [speedNormExact, Nat.mul_div_cancel _ hr]

theorem speedNormOf_nil (speed ref : BitVec 16) :
    speedNormOf [] speed ref = speedNormExact speed ref := rfl

/-- A list of departures that holds an entry for `(speed, ref)` first decides the result. -/
theorem speedNormOf_append_of_mem (f : BitVec 16 → BitVec 16 → BitVec 16)
    (ps : List (BitVec 16 × BitVec 16)) (speed ref : BitVec 16) (h : (speed, ref) ∈ ps) :
    speedNormOf (ps.map fun p => ⟨p.1, p.2, f p.1 p.2⟩) speed ref = f speed ref := by
  induction ps with
  | nil => cases h
  | cons p ps ih =>
    simp only [List.map_cons, speedNormOf]
    split
    · next hp => rw [hp.1, hp.2]
    · next hp =>
      refine ih ?_
      rcases List.mem_cons.1 h with h | h
      · exact absurd ⟨by rw [← h], by rw [← h]⟩ hp
      · exact h

/-- Every function of `(speed, ref)` is the `SPEED_NORM` of some `Config` (log entry 9). -/
theorem speedNorm_represents_any (f : BitVec 16 → BitVec 16 → BitVec 16) :
    ∃ l : List SpeedNormEntry, ∀ speed ref, speedNormOf l speed ref = f speed ref := by
  let all : List (BitVec 16) := (List.finRange (2 ^ 16)).map BitVec.ofFin
  have hall : ∀ x : BitVec 16, x ∈ all := fun x =>
    List.mem_map.2 ⟨x.toFin, List.mem_finRange _, rfl⟩
  exact ⟨_, fun speed ref => speedNormOf_append_of_mem f (all ×ˢ all) speed ref
    (List.mem_product.2 ⟨hall speed, hall ref⟩)⟩

end Sys2Proof.Machine
end

