-- ==== Sys2Proof/Laws/Step.lean ====
section
/-! SUPPORT. What one step can do: the taken event, the host write's outcomes, the meanings' outcomes. -/

namespace Sys2Proof.Machine

/-- Every meaning answers a next state. -/
theorem exec_answers_next (i : Instr) (s : State) : ∃ t, exec i s = .next t := by
  cases i <;> exact ⟨_, rfl⟩

/-- Every aligned host write answers a next state. -/
theorem memWrite_answers_next (s : State) (a : HostAddr) (v : Word) :
    ∃ t, s.memWrite a v = .next t := by
  unfold State.memWrite
  split
  · exact ⟨_, rfl⟩
  · split
    · exact ⟨_, rfl⟩
    · unfold State.command
      split
      · exact exec_answers_next _ s
      · exact ⟨_, rfl⟩
    · exact ⟨_, rfl⟩

/-- Everything a host write can do. -/
theorem memWrite_cases {s t : State} {a : HostAddr} {v : Word} (h : s.memWrite a v = .next t) :
    (s.busy = true ∧ t = s.raise .busy)
      ∨ (s.busy = false ∧ regAt a = none ∧ t = s)
      ∨ (s.busy = false ∧ regAt a = some .cmd ∧
          ((∃ i, decodeCommand v = .ok i ∧ exec i s = .next t)
            ∨ (∃ e, decodeCommand v = .error e ∧ t = s.raise .op)))
      ∨ (s.busy = false ∧ ∃ r, r ≠ .cmd ∧ regAt a = some r ∧ t = s.regWrite r v) := by
  unfold State.memWrite at h
  cases hb : s.busy with
  | true => simp only [hb, if_true, Host.Outcome.next.injEq] at h; exact .inl ⟨rfl, h.symm⟩
  | false =>
    simp only [hb, Bool.false_eq_true, if_false] at h
    split at h
    · next hr => exact .inr (.inl ⟨rfl, hr, (Host.Outcome.next.inj h).symm⟩)
    · next hr =>
      refine .inr (.inr (.inl ⟨rfl, hr, ?_⟩))
      unfold State.command at h
      split at h
      · next i hi => exact .inl ⟨i, hi, h⟩
      · next e he => exact .inr ⟨e, he, (Host.Outcome.next.inj h).symm⟩
    · next r hne hr =>
      exact .inr (.inr (.inr ⟨rfl, r, fun hc => hne (by rw [hc]), hr, (Host.Outcome.next.inj h).symm⟩))

/-- The event a schedule's first enabled step is, and what stands around it. -/
theorem State.firstEnabled_spec {s : State} {es rest : List Event} {e : Event}
    (h : s.firstEnabled es = some (e, rest)) :
    s.enabled e = true ∧ ∃ before after, es = before ++ e :: after ∧ rest = before ++ after
      ∧ ∀ x ∈ before, s.enabled x = false := by
  induction es generalizing rest with
  | nil => cases h
  | cons x xs ih =>
    unfold State.firstEnabled at h
    split at h
    · next hx =>
      simp only [Option.some.injEq, Prod.mk.injEq] at h
      obtain ⟨rfl, rfl⟩ := h
      exact ⟨hx, [], xs, rfl, rfl, by simp⟩
    · next hx =>
      cases hf : s.firstEnabled xs with
      | none => simp [hf] at h
      | some p =>
        obtain ⟨e', r'⟩ := p
        simp only [hf, Option.map_some, Option.some.injEq, Prod.mk.injEq] at h
        obtain ⟨rfl, rfl⟩ := h
        obtain ⟨he, b, a, rfl, rfl, hb⟩ := ih hf
        refine ⟨he, x :: b, a, rfl, rfl, ?_⟩
        intro y hy
        rcases List.mem_cons.1 hy with rfl | hy
        · simpa using hx
        · exact hb y hy

@[simp] theorem State.firstEnabled_cons_of_enabled (s : State) (e : Event) (es : List Event)
    (h : s.enabled e = true) : s.firstEnabled (e :: es) = some (e, es) := by
  simp [State.firstEnabled, h]

/-- What a step can do: nothing, when no agent's step is enabled, or one agent's step. -/
theorem step_cases {s s' : State} (h : step s = .next s') :
    (s.firstEnabled s.schedule = none ∧ s' = s)
      ∨ ∃ e rest, s.firstEnabled s.schedule = some (e, rest) ∧ s.enabled e = true ∧
          State.perform { s with schedule := rest } e = .next s' := by
  unfold step at h
  split at h
  · next hn => exact .inl ⟨hn, (Host.Outcome.next.inj h).symm⟩
  · next e rest he => exact .inr ⟨e, rest, he, (State.firstEnabled_spec he).1, h⟩

/-- A step whose schedule begins with an enabled event takes that event. -/
theorem step_of_enabled {s : State} {e : Event} {rest : List Event} (hs : s.schedule = e :: rest)
    (he : s.enabled e = true) : step s = State.perform { s with schedule := rest } e := by
  simp [step, hs, he]

/-- Everything one agent's step can do. -/
theorem perform_cases {s s' : State} {e : Event} (h : s.perform e = .next s') :
    (∃ a v, e = .wr a v ∧ aligned a = true ∧ s.memWrite a v = .next s')
      ∨ (∃ a, e = .rd a ∧ aligned a = true ∧
          s' = { s with hostReads := s.hostReads ++ [s.memRead a] })
      ∨ (e = .txacc ∧ s' = s.txAcc)
      ∨ (∃ f, e = .rx f ∧ s' = s.receive f)
      ∨ (e = .tick ∧ s' = s.tick)
      ∨ (e = .rst ∧ s' = s.hardwareReset) := by
  cases e with
  | wr a v =>
    simp only [State.perform, State.hostWrite] at h
    split at h
    · next ha => exact .inl ⟨a, v, rfl, ha, h⟩
    · cases h
  | rd a =>
    simp only [State.perform, State.hostRead] at h
    split at h
    · next ha => exact .inr (.inl ⟨a, rfl, ha, (Host.Outcome.next.inj h).symm⟩)
    · cases h
  | txacc => exact .inr (.inr (.inl ⟨rfl, (Host.Outcome.next.inj h).symm⟩))
  | rx f => exact .inr (.inr (.inr (.inl ⟨f, rfl, (Host.Outcome.next.inj h).symm⟩)))
  | tick => exact .inr (.inr (.inr (.inr (.inl ⟨rfl, (Host.Outcome.next.inj h).symm⟩))))
  | rst => exact .inr (.inr (.inr (.inr (.inr ⟨rfl, (Host.Outcome.next.inj h).symm⟩))))

/-! The step of each agent, when it stands first in the schedule. -/

theorem step_wr {s : State} {a : HostAddr} {v : Word} {rest : List Event}
    (h : s.schedule = .wr a v :: rest) :
    step s = State.hostWrite { s with schedule := rest } a v :=
  step_of_enabled h rfl

theorem step_txacc {s : State} {i : Index} {rest : List Event} (h : s.schedule = .txacc :: rest)
    (hf : s.fsm = .sending) (hx : s.txIdx.val = i.val) :
    step s = .next (State.transmit { s with schedule := rest } i (s.pkt.get i)) := by
  have hp : s.presentedSlot = some i := (s.presentedSlot_eq_some i).2 ⟨hf, hx⟩
  have hp' : State.presentedSlot { s with schedule := rest } = some i := hp
  rw [step_of_enabled h (by simp [State.enabled, hp]), State.perform, State.txAcc_of_presented hp']

theorem step_rx {s : State} {f : RxFrame} {rest : List Event} (h : s.schedule = .rx f :: rest)
    (hf : s.fsm = .awaitingAck) :
    step s = .next (State.receive { s with schedule := rest } f) :=
  step_of_enabled h (by simp [State.enabled, hf])

theorem step_tick {s : State} {rest : List Event} (h : s.schedule = .tick :: rest) :
    step s = .next (State.tick { s with schedule := rest }) :=
  step_of_enabled h rfl

/-- A run of one step more. -/
theorem run_of_step (n : Nat) {s t : State} (h : step s = .next t) :
    Host.Core.run Sys2Proof.core (n + 1) s = Host.Core.run Sys2Proof.core n t := by
  simp only [Host.Core.run]
  rw [show Sys2Proof.core.step s = .next t from h]

/-! The latest status of a responder. -/

@[simp] theorem latestStatus_nil (id : BitVec 11) (k : Nat) : latestStatus id k [] = k := rfl

@[simp] theorem latestStatus_tick (id : BitVec 11) (k : Nat) (es : List Event) :
    latestStatus id k (.tick :: es) = latestStatus id k es := rfl

theorem latestStatus_rx (id : BitVec 11) (k : Nat) (f : RxFrame) (es : List Event) :
    latestStatus id k (.rx f :: es) = latestStatus id
      (if f.id = id ∧ f.data[1]? = some 1 then 1
        else if f.id = id ∧ f.data[1]? = some 2 then 2 else k) es := rfl

end Sys2Proof.Machine
end

