-- ==== Sys2Proof/Laws/Effect.lean ====
section
/-! SUPPORT. Everything one step can do to the state, as one case list: what later proofs take apart in
place of the step function. -/

namespace Sys2Proof.Machine

/-- The address of the register found at an address (10_state.md R47). -/
theorem eq_regAddr_of_regAt {a : HostAddr} {r : HostReg} (h : regAt a = some r) : a = regAddr r := by
  have h' := List.find?_some h
  simp only [beq_iff_eq] at h'
  exact h'.symm

/-- The events enabled in two states agree when the sequencer's position does. -/
theorem State.firstEnabled_congr {s u : State} (hf : s.fsm = u.fsm) (hx : s.txIdx = u.txIdx)
    (es : List Event) : s.firstEnabled es = u.firstEnabled es := by
  have he : ∀ e, s.enabled e = u.enabled e := by
    intro e
    cases e <;> simp [State.enabled, State.presentedSlot, hf, hx]
  induction es with
  | nil => rfl
  | cons e es ih => simp [State.firstEnabled, he, ih]

/-- Everything a decoded command can do while not busy. -/
theorem exec_command_cases {s t : State} {i : Instr} {w : Word} (hd : decodeCommand w = .ok i)
    (hb : s.busy = false) (h : exec i s = .next t) :
    (i = .nop ∧ t = s)
      ∨ (∃ e, t = s.raise e)
      ∨ (∃ j, i = .encf (axisId j) ∧ t = s.encodeAxis j)
      ∨ (i = .encp ∧ t = s.encodeAll)
      ∨ (∃ j : Index, i = .ldf (BitVec.ofNat 8 j.val) ∧ t = s.fillSlot j s.fin)
      ∨ (i = .sync ∧ s.pvalid = Six.fill true ∧ t = s.normalize)
      ∨ (i = .send ∧ s.pvalid = Six.fill true ∧ t = s.normalize.startPacket)
      ∨ (i = .axrst ∧ t = s.clearLast)
      ∨ (i = .pclr ∧ t = s.clearValid) := by
  cases i with
  | nop =>
    have ht := Host.Outcome.next.inj h
    simp only [State.unlessBusy_of_not_busy _ hb] at ht
    exact .inl ⟨rfl, ht.symm⟩
  | encf a =>
    have ht := Host.Outcome.next.inj h
    simp only [State.unlessBusy_of_not_busy _ hb] at ht
    cases ha : axisOperand a with
    | none => rw [ha] at ht; exact .inr (.inl ⟨_, ht.symm⟩)
    | some j =>
      rw [ha] at ht
      have hj := (axisOperand_eq_some a j).1 ha
      refine .inr (.inr (.inl ⟨j, congrArg _ (BitVec.eq_of_toNat_eq ?_), ht.symm⟩))
      simp only [axisId, BitVec.toNat_ofNat]
      omega
  | encp =>
    have ht := Host.Outcome.next.inj h
    simp only [State.unlessBusy_of_not_busy _ hb] at ht
    exact .inr (.inr (.inr (.inl ⟨rfl, ht.symm⟩)))
  | ldf a =>
    have ht := Host.Outcome.next.inj h
    simp only [State.unlessBusy_of_not_busy _ hb] at ht
    cases ha : slotOperand a with
    | none => rw [ha] at ht; exact .inr (.inl ⟨_, ht.symm⟩)
    | some j =>
      rw [ha] at ht
      have hj := (slotOperand_eq_some a j).1 ha
      refine .inr (.inr (.inr (.inr (.inl
        ⟨j, congrArg _ (BitVec.eq_of_toNat_eq ?_), ht.symm⟩))))
      simp only [BitVec.toNat_ofNat]
      omega
  | sync =>
    have ht := Host.Outcome.next.inj h
    simp only [State.unlessBusy_of_not_busy _ hb] at ht
    cases hc : s.pvalid.allTrue with
    | false => rw [State.ifComplete_of_incomplete _ hc] at ht; exact .inr (.inl ⟨_, ht.symm⟩)
    | true =>
      rw [State.ifComplete_of_complete _ hc] at ht
      exact .inr (.inr (.inr (.inr (.inr (.inl ⟨rfl, (Six.allTrue_iff _).1 hc, ht.symm⟩)))))
  | send =>
    have ht := Host.Outcome.next.inj h
    simp only [State.unlessBusy_of_not_busy _ hb] at ht
    cases hc : s.pvalid.allTrue with
    | false => rw [State.ifComplete_of_incomplete _ hc] at ht; exact .inr (.inl ⟨_, ht.symm⟩)
    | true =>
      rw [State.ifComplete_of_complete _ hc] at ht
      exact .inr (.inr (.inr (.inr (.inr (.inr (.inl
        ⟨rfl, (Six.allTrue_iff _).1 hc, ht.symm⟩))))))
  | axrst =>
    have ht := Host.Outcome.next.inj h
    simp only [State.unlessBusy_of_not_busy _ hb] at ht
    exact .inr (.inr (.inr (.inr (.inr (.inr (.inr (.inl ⟨rfl, ht.symm⟩)))))))
  | pclr =>
    have ht := Host.Outcome.next.inj h
    simp only [State.unlessBusy_of_not_busy _ hb] at ht
    exact .inr (.inr (.inr (.inr (.inr (.inr (.inr (.inr ⟨rfl, ht.symm⟩)))))))
  | frame _ _ _ _ => exact absurd hd decodeCommand_ne_frame

/-- What the step of one agent does to the state: every case, with its guards. -/
inductive Effect (s : State) : Event → State → Prop
  | busy (a : HostAddr) (v : Word) : s.busy = true → Effect s (.wr a v) (s.raise .busy)
  | ignored (a : HostAddr) (v : Word) : s.busy = false → Effect s (.wr a v) s
  | stored (r : HostReg) (v : Word) :
      s.busy = false → r ≠ .cmd → Effect s (.wr (regAddr r) v) (s.regWrite r v)
  | refused (w : Word) (e : Err) : s.busy = false → Effect s (.wr 0 w) (s.raise e)
  | encf (w : Word) (j : Index) :
      s.busy = false → decodeCommand w = .ok (.encf (axisId j)) → Effect s (.wr 0 w) (s.encodeAxis j)
  | encp (w : Word) :
      s.busy = false → decodeCommand w = .ok .encp → Effect s (.wr 0 w) s.encodeAll
  | ldf (w : Word) (j : Index) :
      s.busy = false → decodeCommand w = .ok (.ldf (BitVec.ofNat 8 j.val)) →
      Effect s (.wr 0 w) (s.fillSlot j s.fin)
  | sync (w : Word) :
      s.busy = false → decodeCommand w = .ok .sync → s.pvalid = Six.fill true →
      Effect s (.wr 0 w) s.normalize
  | send (w : Word) :
      s.busy = false → decodeCommand w = .ok .send → s.pvalid = Six.fill true →
      Effect s (.wr 0 w) s.normalize.startPacket
  | axrst (w : Word) :
      s.busy = false → decodeCommand w = .ok .axrst → Effect s (.wr 0 w) s.clearLast
  | pclr (w : Word) :
      s.busy = false → decodeCommand w = .ok .pclr → Effect s (.wr 0 w) s.clearValid
  | rd (a : HostAddr) : Effect s (.rd a) { s with hostReads := s.hostReads ++ [s.memRead a] }
  | txacc (i : Index) :
      s.fsm = .sending → s.txIdx.val = i.val → Effect s .txacc (s.transmit i (s.pkt.get i))
  | rxIgnored (f : RxFrame) : s.fsm = .awaitingAck → Effect s (.rx f) s
  | rxFirst (f : RxFrame) (st : AckStatus) :
      s.fsm = .awaitingAck → f.id = 1 → statusOf f = some st →
      Effect s (.rx f) (State.resolve { s with ack1 := st })
  | rxSecond (f : RxFrame) (st : AckStatus) :
      s.fsm = .awaitingAck → f.id = 2 → statusOf f = some st →
      Effect s (.rx f) (State.resolve { s with ack2 := st })
  | tickIdle : s.fsm ≠ .awaitingAck → Effect s .tick s
  | tickCounts :
      s.fsm = .awaitingAck → s.timer.toNat + 1 ≤ s.timeout.toNat →
      Effect s .tick { s with timer := s.timer + 1 }
  | tickTimesOut :
      s.fsm = .awaitingAck → s.timeout.toNat < s.timer.toNat + 1 →
      Effect s .tick { s with timer := s.timer + 1, fsm := .timedOut
                              ev := { s.ev with timedOut := true } }
  | rst : Effect s .rst s.hardwareReset

/-- An enabled agent's step that answers a next state has one of these effects. -/
theorem effect_of_perform {s t : State} {e : Event} (he : s.enabled e = true)
    (h : s.perform e = .next t) : Effect s e t := by
  have cases := perform_cases h
  clear h
  rcases cases with ⟨a, v, rfl, -, h⟩ | ⟨a, rfl, -, rfl⟩ | ⟨rfl, rfl⟩ | ⟨f, rfl, rfl⟩ | ⟨rfl, rfl⟩
    | ⟨rfl, rfl⟩
  · have writes := memWrite_cases h
    clear h
    rcases writes with ⟨hb, rfl⟩ | ⟨hb, -, rfl⟩ | ⟨hb, hr, h⟩ | ⟨hb, r, hne, hr, rfl⟩
    · exact .busy a v hb
    · exact .ignored a v hb
    · obtain rfl : a = (0 : HostAddr) := eq_regAddr_of_regAt hr
      rcases h with ⟨i, hi, h⟩ | ⟨e, -, h⟩
      · have commands := exec_command_cases hi hb h
        clear h
        rcases commands with ⟨rfl, rfl⟩ | ⟨e, rfl⟩ | ⟨j, rfl, rfl⟩ | ⟨rfl, rfl⟩ | ⟨j, rfl, rfl⟩
          | ⟨rfl, hv, rfl⟩ | ⟨rfl, hv, rfl⟩ | ⟨rfl, rfl⟩ | ⟨rfl, rfl⟩
        · exact .ignored 0 v hb
        · exact .refused v e hb
        · exact .encf v j hb hi
        · exact .encp v hb hi
        · exact .ldf v j hb hi
        · exact .sync v hb hi hv
        · exact .send v hb hi hv
        · exact .axrst v hb hi
        · exact .pclr v hb hi
      · subst h
        exact .refused v _ hb
    · rw [eq_regAddr_of_regAt hr]
      exact .stored r v hb hne
  · exact .rd a
  · cases hp : s.presentedSlot with
    | none => simp [State.enabled, hp] at he
    | some i =>
      rw [State.txAcc_of_presented hp]
      obtain ⟨hf, hx⟩ := (s.presentedSlot_eq_some i).1 hp
      exact .txacc i hf hx
  · have hf : s.fsm = .awaitingAck := by simpa [State.enabled] using he
    rcases s.receive_cases f with h | ⟨st, -, hst, ⟨hi, h⟩ | ⟨hi, h⟩⟩ <;> rw [h]
    · exact .rxIgnored f hf
    · exact .rxFirst f st hf hi hst
    · exact .rxSecond f st hf hi hst
  · rcases s.tick_cases with ⟨hf, h⟩ | ⟨hf, ht, h⟩ | ⟨hf, ht, h⟩ <;> rw [h]
    · exact .tickIdle hf
    · exact .tickCounts hf ht
    · exact .tickTimesOut hf ht
  · exact .rst

/-- Everything a step can do: nothing, or the effect of its next event, with the rest of the schedule
drawn from the schedule. -/
theorem step_effect {s t : State} (h : step s = .next t) :
    (s.nextEvent = none ∧ t = s)
      ∨ ∃ e rest, s.nextEvent = some e ∧ e ∈ s.schedule ∧ (∀ x ∈ rest, x ∈ s.schedule) ∧
          Effect { s with schedule := rest } e t := by
  rcases step_cases h with ⟨hn, rfl⟩ | ⟨e, rest, hf, he, h⟩
  · exact .inl ⟨by simp [State.nextEvent, hn], rfl⟩
  · obtain ⟨-, before, after, hs, hr, -⟩ := State.firstEnabled_spec hf
    refine .inr ⟨e, rest, by simp [State.nextEvent, hf], by rw [hs]; simp, ?_,
      effect_of_perform he h⟩
    intro x hx
    rw [hr] at hx
    rw [hs]
    simp only [List.mem_append, List.mem_cons] at hx ⊢
    tauto

/-- What an accepted register write leaves alone. -/
theorem State.regWrite_frame (s : State) (r : HostReg) (v : Word) :
    (s.regWrite r v).config = s.config ∧ (s.regWrite r v).init = s.init
      ∧ (s.regWrite r v).last = s.last ∧ (s.regWrite r v).pkt = s.pkt
      ∧ (s.regWrite r v).pvalid = s.pvalid ∧ (s.regWrite r v).refSpeed = s.refSpeed
      ∧ (s.regWrite r v).fsm = s.fsm ∧ (s.regWrite r v).txIdx = s.txIdx
      ∧ (s.regWrite r v).ack1 = s.ack1 ∧ (s.regWrite r v).ack2 = s.ack2
      ∧ (s.regWrite r v).timer = s.timer ∧ (s.regWrite r v).schedule = s.schedule
      ∧ (s.regWrite r v).emitted = s.emitted ∧ (s.regWrite r v).hostReads = s.hostReads := by
  cases r <;> simp [State.regWrite]

end Sys2Proof.Machine
end

