-- ==== Sys2Proof/Laws/PerInstr.lean ====
section
/-! SUPPORT. For each instruction: its code has the width and the fixed bits of its row of
spec/opcode_table.json (30_encoding.md R91, R95). -/

namespace Sys2Proof.Laws.MatchesRow

/-- The mask and match of a row, as the table gives them for a command. -/
def commandRow : Instr → Word × Word
  | .nop => (0xFFFFFFFF, 0x00000000)
  | .encf _ => (0xFFFF00FF, 0x00000001)
  | .encp => (0xFFFFFFFF, 0x00000002)
  | .ldf _ => (0xFFFF00FF, 0x00000003)
  | .sync => (0xFFFFFFFF, 0x00000004)
  | .send => (0xFFFFFFFF, 0x00000005)
  | .axrst => (0xFFFFFFFF, 0x00000006)
  | .pclr => (0xFFFFFFFF, 0x00000007)
  | .frame _ _ _ _ => (0, 0)

/-- The code of `i` has its row's width and fixed bits. -/
def Statement (i : Instr) : Prop :=
  match encode i with
  | .command w => w &&& (commandRow i).1 = (commandRow i).2
  | .frame w => w.extractLsb' 56 8 = 0xF5#8 ∧ w.extractLsb' 32 8 = 0x02#8

theorem nop : Statement .nop := by
  simp only [Statement, encode, commandRow]; decide
theorem encf (a : Byte) : Statement (.encf a) := by
  simp only [Statement, encode, commandRow, commandWord]
  revert a; decide
theorem encp : Statement .encp := by
  simp only [Statement, encode, commandRow]; decide
theorem ldf (s : Byte) : Statement (.ldf s) := by
  simp only [Statement, encode, commandRow, commandWord]
  revert s; decide
theorem sync : Statement .sync := by
  simp only [Statement, encode, commandRow]; decide
theorem send : Statement .send := by
  simp only [Statement, encode, commandRow]; decide
theorem axrst : Statement .axrst := by
  simp only [Statement, encode, commandRow]; decide
theorem pclr : Statement .pclr := by
  simp only [Statement, encode, commandRow]; decide
theorem frame (axisId : Byte) (speed : BitVec 16) (position : BitVec 24) (checksum : Byte) :
    Statement (.frame axisId speed position checksum) := by
  obtain ⟨-, h1, -, h2, -, -⟩ :=
    Machine.frame_bits_fields axisId 0xF5#8 speed 0x02#8 position checksum
  exact ⟨h1, h2⟩

end Sys2Proof.Laws.MatchesRow
end

