-- ==== Sys2Proof/Tests/Slice0.lean ====
section
/-! SUPPORT. Tests. Expected values are the spec's own: the words of 30_encoding.md R91, the vectors V<n> of
95_test_vectors.md, or hand calculation from the rule named. After them, for each statement with
hypotheses, a state and operands that meet all of them (`witness_<statement>`). -/

namespace Sys2Proof.Tests

open Sys2Proof.Machine

/-! Well-formedness: 30_encoding.md R93, R98. -/

theorem test_wellFormed_encf :
    Instr.wellFormed (.encf 0) = false ∧ Instr.wellFormed (.encf 7) = false ∧
      Instr.wellFormed (.encf 1) = true ∧ Instr.wellFormed (.encf 6) = true := by decide

theorem test_wellFormed_ldf :
    Instr.wellFormed (.ldf 6) = false ∧ Instr.wellFormed (.ldf 0) = true ∧
      Instr.wellFormed (.ldf 5) = true := by decide

/-- The Frame of 30_encoding.md R103, and the same with its checksum off by one. -/
theorem test_wellFormed_frame :
    Instr.wellFormed (.frame 0x01 0x03E8 0x0034BC 0xD3) = true ∧
      Instr.wellFormed (.frame 0x01 0x03E8 0x0034BC 0xD4) = false := by decide

/-! Decoding: words written out from 30_encoding.md R91 and R95, `ZERO`, `A`, `OP` in turn. -/

theorem test_decode_nop : decodeCommand 0b0000000000000000_00000000_00000000 = .ok .nop := by decide
theorem test_decode_encf :
    decodeCommand 0b0000000000000000_00000110_00000001 = .ok (.encf 6) := by decide
theorem test_decode_encp : decodeCommand 0b0000000000000000_00000000_00000010 = .ok .encp := by decide
theorem test_decode_ldf :
    decodeCommand 0b0000000000000000_00000101_00000011 = .ok (.ldf 5) := by decide
theorem test_decode_sync : decodeCommand 0b0000000000000000_00000000_00000100 = .ok .sync := by decide
theorem test_decode_send : decodeCommand 0b0000000000000000_00000000_00000101 = .ok .send := by decide
theorem test_decode_axrst :
    decodeCommand 0b0000000000000000_00000000_00000110 = .ok .axrst := by decide
theorem test_decode_pclr : decodeCommand 0b0000000000000000_00000000_00000111 = .ok .pclr := by decide

/-- `01 F5 03 E8 02 00 34 BC D3`: axis 1, speed 1000, displacement 13500 (30_encoding.md R103). -/
theorem test_decode_frame :
    decode (.frame 0x01F503E8020034BCD3) = .ok (.frame 1 1000 13500 0xD3) := by decide

/-- The reserved words of V86, and a Frame whose `B[1]` or `B[4]` is wrong. -/
theorem test_decode_refuses :
    decodeCommand 0x00000008 = .error .reservedOpcode ∧
      decodeCommand 0x000000FF = .error .reservedOpcode ∧
      decodeCommand 0x00010001 = .error .zeroFieldNotZero ∧
      decodeCommand 0x00000105 = .error .operandNotZero ∧
      decodeCommand 0x80000000 = .error .zeroFieldNotZero ∧
      decodeCommand 0x00000702 = .error .operandNotZero ∧
      decode (.frame 0x01F603E8020034BCD3) = .error .frameOpcode ∧
      decode (.frame 0x01F503E8030034BCD3) = .error .frameSubcommand := by decide

/-- The host's table words: an `ENCF` row of 32 bits and a FRAME row of 72. -/
theorem test_decodeTableWord :
    decodeTableWord 32 0x00000301 = some (.encf 3) ∧
      decodeTableWord 72 0x01F503E8020034BCD3 = some (.frame 1 1000 13500 0xD3) ∧
      decodeTableWord 72 0 = none := by decide

/-! One step. -/

/-- The state after one step whose only coming event is `e`; the state itself if it stops. -/
def oneStep (s : State) (e : Event) : State :=
  match step { s with schedule := [e] } with
  | .next t => t
  | .fault _ => s
  | .refused _ => s

/-- The state after a command written to `CMD`. -/
def command (s : State) (w : Word) : State := oneStep s (writeReg .cmd w)

/-- The reset state with the operands of one axis written. -/
def operands (i : Index) (t : Word) (g f : BitVec 16) : State :=
  { State.reset with feed := f, tgt := State.reset.tgt.set i t, gear := State.reset.gear.set i g }

/-- The packet of V45. -/
def packetV45 : Six Frame where
  e0 := Frame.ofBits 0x01F503E802000000E3
  e1 := Frame.ofBits 0x02F503E802000000E4
  e2 := Frame.ofBits 0x03F503E802000000E5
  e3 := Frame.ofBits 0x04F503E802000000E6
  e4 := Frame.ofBits 0x05F503E802000000E7
  e5 := Frame.ofBits 0x06F503E802000000E8

/-- A packet with these speeds in its slots. -/
def speeds (a b c d e f : BitVec 16) : Six Frame :=
  ⟨withSpeed Frame.zero a, withSpeed Frame.zero b, withSpeed Frame.zero c, withSpeed Frame.zero d,
    withSpeed Frame.zero e, withSpeed Frame.zero f⟩

/-- The start of V61: the packet of V45 loaded. -/
def loaded : State := { State.reset with feed := 1000, pkt := packetV45, pvalid := Six.fill true }

/-- The packet of V45 being sent, at slot `k` (V61, V62). -/
def sending (k : Fin 7) : State :=
  { State.reset with feed := 1000, pkt := packetV45, refSpeed := 1000, fsm := .sending, txIdx := k }

/-- The packet of V45 sent, no acknowledgement yet (V63). -/
def awaiting : State := { sending 6 with fsm := .awaitingAck }

/-- A received frame of two data bytes. -/
def rxFrame (id : BitVec 11) (b : Byte) : RxFrame := ⟨id, [0, b], by simp⟩

/-- V2: negative displacement; `LASTHI` sign-extended. -/
theorem test_encf_v2 :
    let t := command (operands 0 0xFFF60000 0x0D80 1000) 0x00000101
    t.pkt.get 0 = Frame.ofBits 0x01F503E802FFCB44F1 ∧ t.memRead 0x064 = 0xFFFFFFFF ∧
      t.memRead 0x060 = 0x79000000 ∧ t.statusWord = 0x00001000 := by decide

/-- V14: truncation toward zero of an exact half; V41: the inversion negates after it. -/
theorem test_encf_v14_v41 :
    (command (operands 4 0xFFFFFE00 0x3000 1500) 0x00000501).pkt.get 4
        = Frame.ofBits 0x05F505DC02FFFFDBB6 ∧
      (command { operands 0 0x000A0000 0x0D80 1000 with
          inv := 1, config := { Config.shipped with invEffect := true } } 0x00000101).pkt.get 0
        = Frame.ofBits 0x01F503E802FFCB44F1 := by decide

/-- V45: six Frames, all valid. -/
theorem test_encp_v45 :
    let t := command { State.reset with feed := 1000 } 0x00000002
    t.pkt = packetV45 ∧ t.statusWord = 0x0003F000 := by decide

/-- V16 through `ENCP`: the most negative operands. -/
theorem test_encp_v16 :
    let t := command (operands 5 0x80000000 0xFFFF 65535) 0x00000002
    t.pkt.get 5 = Frame.ofBits 0x06F5FFFF020032002D ∧ t.memRead 0x08C = 0xFFFF8000 ∧
      t.memRead 0x088 = 0x80000000 := by decide

/-- V81: nine bytes that are no Frame are loaded as they are. -/
theorem test_ldf_v81 :
    let t := command { State.reset with fin := Frame.ofBits 0xDEADBEEF0123456789 } 0x00000503
    t.pkt.get 5 = Frame.ofBits 0xDEADBEEF0123456789 ∧ t.statusWord = 0x00020000 := by decide

/-- V82, V87: operands out of range. -/
theorem test_operands_out_of_range :
    (command State.reset 0x00000603).memRead 0x008 = 0x00000400 ∧
      (command State.reset 0x0000FF03).pvalid = Six.fill false ∧
      (command State.reset 0x00000001).memRead 0x008 = 0x00000400 ∧
      (command State.reset 0x00000701).memRead 0x008 = 0x00000400 := by decide

/-- V51, V57: the floor of the average, and the guard. -/
theorem test_sync_v51_v57 :
    (command { loaded with pkt := speeds 65535 0 0 0 0 0 } 0x00000004).refSpeed = 10922 ∧
      (command { loaded with pkt := speeds 1 1 1 1 1 0 } 0x00000004).refSpeed = 0 := by decide

/-- V59: a `SPEED_NORM` that is not the default rewrites the speed and not the checksum. -/
theorem test_sync_v59 :
    let t := command { loaded with
      pkt := speeds 1 49 49 49 49 97
      config := { Config.shipped with speedNorm := [⟨1, 49, 0⟩] } } 0x00000004
    t.refSpeed = 49 ∧ t.pkt = speeds 0 49 49 49 49 97 := by decide

/-- V61. -/
theorem test_send_v61 :
    let t := command loaded 0x00000005
    t.statusWord = 0x00000009 ∧ t.refSpeed = 1000 ∧ t.ev = EventFlags.clear := by decide

/-- V60 and the same for `SEND`: no slot valid. -/
theorem test_incomplete_v60 :
    (command State.reset 0x00000004).memRead 0x008 = 0x00000200 ∧
      (command State.reset 0x00000005).memRead 0x008 = 0x00000200 := by decide

/-- V62: the first Frame goes out. -/
theorem test_txacc_v62 :
    let t := oneStep (sending 0) .txacc
    t.emitted = [⟨1, false, 8, [0xF5, 0x03, 0xE8, 0x02, 0, 0, 0, 0xE3]⟩] ∧
      t.statusWord = 0x00000019 := by decide

/-- V63: the sixth; through the FRAME row, with the slot placed by `withFetchWord`. -/
theorem test_frame_v63 :
    let t := match step (State.withFetchWord { sending 5 with timer := 7 } 72 0x06F503E802000000E8) with
      | .next t => t
      | _ => State.reset
    t.statusWord = 0x0000006A ∧ t.timer = 0 ∧
      t.emitted = [⟨6, false, 8, [0xF5, 0x03, 0xE8, 0x02, 0, 0, 0, 0xE8]⟩] := by decide

/-- From reset, a FRAME placed for the next step goes out from slot 0. -/
theorem test_frame_from_reset :
    (match step (State.reset.withFetchWord 72 0x01F503E8020034BCD3) with
      | .next t => t.emitted
      | _ => []) = [⟨1, false, 8, [0xF5, 0x03, 0xE8, 0x02, 0, 0x34, 0xBC, 0xD3]⟩] := by decide

/-- V84. -/
theorem test_axrst_v84 :
    let t := command { loaded with last := Six.fill 5, gear := Six.fill 0x0D80 } 0x00000006
    t.last = Six.fill 0 ∧ t.statusWord = 0x0003F000 ∧ t.gear.get 0 = 0x0D80 := by decide

/-- V83: the slot bytes stay. -/
theorem test_pclr_v83 :
    let t := command loaded 0x00000007
    t.statusWord = 0 ∧ t.memRead 0x100 = 0x01F503E8 := by decide

/-- V85, V75. -/
theorem test_nop_v85_v75 :
    command loaded 0x00000000 = loaded ∧
      command awaiting 0x00000000 = { awaiting with ev := { awaiting.ev with errBusy := true } } := by
  decide

/-- V86, V88: reserved words, `ZERO` before the operand. -/
theorem test_reserved_v86_v88 :
    (command State.reset 0x00000105).memRead 0x008 = 0x00000800 ∧
      (command State.reset 0x00010701).memRead 0x008 = 0x00000800 := by decide

/-- V89: busy is checked first; the next event of 60_exceptions.md R263 leaves the rest. -/
theorem test_busy_v89 :
    (command awaiting 0x00000008).memRead 0x008 = 0x00000100 ∧
      (oneStep awaiting (.wr 0x018 7)).feed = 1000 := by decide

/-- V65, V66. -/
theorem test_rx_v65_v66 :
    (oneStep awaiting (.rx (rxFrame 2 2))).statusWord = 0x0000086A ∧
      (oneStep { awaiting with ack2 := .status2 } (.rx (rxFrame 1 2))).statusWord = 0x00000A63 := by
  decide

/-- V67, V68: a later status 1 replaces a 2; other ids and statuses leave no trace. -/
theorem test_rx_v67_v68 :
    (oneStep { awaiting with ack1 := .status2 } (.rx (rxFrame 1 1))).statusWord = 0x0000016A ∧
      oneStep awaiting (.rx (rxFrame 0x101 2)) = awaiting ∧
      oneStep awaiting (.rx (rxFrame 2 3)) = awaiting := by decide

/-- V69, V70. -/
theorem test_tick_v69_v70 :
    (oneStep awaiting .tick).statusWord = 0x00000064 ∧
      (oneStep awaiting .tick).memRead 0x008 = 0x00000002 ∧
      oneStep { awaiting with timeout := 3, timer := 2 } .tick
        = { awaiting with timeout := 3, timer := 3 } := by decide

/-- V91 to V97: what a register keeps of a write. -/
theorem test_wr_v91_v97 :
    (oneStep State.reset (.wr 0x040 0x12340D80)).memRead 0x040 = 0x00000D80 ∧
      (oneStep State.reset (.wr 0x058 0xFFFFFFFF)).memRead 0x058 = 0x0000003F ∧
      (oneStep State.reset (.wr 0x010 0xFFFFFFFF)).memRead 0x010 = 0x7FFFFFFF ∧
      (oneStep State.reset (.wr 0x00C 0xFFFFFFFF)).memRead 0x00C = 0x00000F03 ∧
      oneStep State.reset (.wr 0x060 5) = State.reset ∧
      oneStep State.reset (.wr 0x1FC 5) = State.reset := by decide

/-- V98, V99: write-one-to-clear, and `irq`. -/
theorem test_ev_v98_v99 :
    let s := { State.reset with ev := ⟨false, false, false, true, true, true⟩ }
    (oneStep s (.wr 0x008 0x00000400)).memRead 0x008 = 0x00000A00 ∧
      (oneStep s (.wr 0x00C 0x00000800)).irq = true ∧ s.irq = false := by decide

/-- V90: what a read hands to the host. -/
theorem test_rd_v90 :
    (oneStep State.reset (.rd 0x040)).hostReads = [0x00000100] ∧
      (oneStep State.reset (.rd 0x1FC)).hostReads = [0x00000000] := by decide

/-- The invariant's witness that is not the reset state: a packet in progress. -/
theorem test_inv_awaiting : awaiting.Inv := by
  refine ⟨by decide, fun _ => by decide, ?_, ?_, ?_⟩
  · show awaiting.txIdx.val = 6; decide
  · show awaiting.bothDone = false; decide
  · show awaiting.timer.toNat ≤ awaiting.timeout.toNat; decide

/-! Hypotheses are met: one state and operands for each statement that has any, at the edges of the
ranges the statement names. -/

theorem witness_ReservedWordsSetOnlyErrOp :
    State.reset.busy = false ∧ decodeCommand 0x00010000 = .error .zeroFieldNotZero ∧
      decodeCommand 0xFFFF0001 = .error .zeroFieldNotZero ∧
      decodeCommand 0x00000008 = .error .reservedOpcode ∧
      decodeCommand 0x000000FF = .error .reservedOpcode ∧
      decodeCommand 0x00000100 = .error .operandNotZero ∧
      decodeCommand 0x0000FF07 = .error .operandNotZero := by decide

theorem witness_PlainWriteKeepsTheLowBits :
    State.reset.busy = false ∧ keptBits .ie = some 0x00000F03 ∧ keptBits (.tgt 5) = some 0xFFFFFFFF ∧
      keptBits (.gear 0) = some 0x0000FFFF ∧ keptBits .inv = some 0x0000003F ∧
      keptBits .fin2 = some 0x000000FF ∧ State.busy { sending 6 with fsm := .satisfied } = false := by
  decide

theorem witness_ReadOnlyAndReservedIgnoreWrites :
    State.reset.busy = false ∧ aligned 0x05C = true ∧ regAt 0x05C = none ∧ aligned 0x1FC = true ∧
      regAt 0x1FC = none ∧ aligned 0x004 = true ∧ regAt 0x004 = some .status ∧
      readOnly .status = true ∧ regAt 0x158 = some (.pktw2 5) ∧ readOnly (.pktw2 5) = true := by decide

theorem witness_EvIsWriteOneToClear :
    (sending 0).fsm = .sending ∧ awaiting.fsm = .awaitingAck ∧ State.reset.fsm = .idle := by decide

theorem witness_BusyWriteOnlySetsErrBusy :
    (sending 0).fsm = .sending ∧ awaiting.fsm = .awaitingAck ∧ aligned 0x000 = true ∧
      aligned 0x1FC = true := by decide

theorem witness_ReadChangesNothing :
    State.schedule { State.reset with schedule := [.rd 0x1FC] } = .rd 0x1FC :: [] ∧
      aligned 0x1FC = true := by decide

theorem witness_UnalignedAccessHasNoMeaning :
    (0x001 : HostAddr).toNat % 4 ≠ 0 ∧ (0x1FF : HostAddr).toNat % 4 ≠ 0 := by decide

theorem witness_StepRunsTheDecodedCommand :
    State.schedule { State.reset with schedule := [.wr 0x000 0x00000601] } = .wr 0x000 0x00000601 :: []
      ∧ decodeCommand 0x00000601 = .ok (.encf 6) := by decide

theorem witness_StepTransmitsThePresentedFrame :
    let s : State := { sending 5 with schedule := [.txacc] }
    s.schedule = .txacc :: [] ∧ s.fsm = .sending ∧ s.txIdx.val = (5 : Index).val ∧
      decode (.frame (s.pkt.get 5).toBits) = .ok (.frame 6 1000 0 0xE8) := by decide

theorem witness_StepTakesTheFirstEnabledEvent :
    let s : State := { State.reset with schedule := [.txacc, .rx (rxFrame 1 2), .tick] }
    s.schedule = [.txacc, .rx (rxFrame 1 2)] ++ .tick :: [] ∧
      (∀ x ∈ [Event.txacc, .rx (rxFrame 1 2)], s.enabled x = false) ∧ s.enabled .tick = true ∧
      (∀ x ∈ State.schedule { State.reset with schedule := [.txacc] }, s.enabled x = false) := by decide

theorem witness_EncfEncodesItsAxis :
    State.reset.busy = false ∧ (1 : Byte).toNat = (0 : Index).val + 1 ∧
      (6 : Byte).toNat = (5 : Index).val + 1 := by decide

theorem witness_OperandRangesAreChecked :
    State.reset.busy = false ∧ (0 : Byte).toNat = 0 ∧ 7 ≤ (7 : Byte).toNat ∧ 6 ≤ (6 : Byte).toNat ∧
      6 ≤ (255 : Byte).toNat ∧
      1 ≤ (1 : Byte).toNat ∧ (6 : Byte).toNat ≤ 6 ∧ (5 : Byte).toNat ≤ 5 := by decide

theorem witness_EncpEncodesEveryAxis : State.reset.busy = false := by decide

theorem witness_EncpIsSixEncf :
    State.busy { sending 6 with fsm := .timedOut } = false := by decide

theorem witness_EncodedFramesAreWellFormed :
    let s := operands 1 0x51EB847B 0x0400 65535
    let u := operands 1 0xAE147AE1 0x0400 65535
    (2 : Byte).toNat = (1 : Index).val + 1 ∧ s.busy = false ∧ u.busy = false ∧
      exec (.encf 2) s = .next (s.encodeAxis 1) ∧ exec .encp u = .next u.encodeAll ∧
      specDisplacement s 1 = 2 ^ 23 - 1 ∧ specDisplacement u 1 = -2 ^ 23 := by
  refine ⟨by decide, by decide, by decide, rfl, rfl, by decide, by decide⟩

theorem witness_InvHasNoEffectByDefault :
    State.reset.config.invEffect = false ∧
      exec .encp State.reset = .next State.reset.encodeAll := ⟨rfl, rfl⟩

theorem witness_InversionNegatesTheDisplacement :
    let s := { State.reset with config := { Config.shipped with invEffect := true } }
    s.busy = false ∧ (6 : Byte).toNat = (5 : Index).val + 1 ∧ s.config.invEffect = true ∧
      (0x20 : BitVec 6).getLsbD (5 : Index).val = true ∧
      (0x1F : BitVec 6).getLsbD (5 : Index).val = false := by decide

theorem witness_SignedFieldRoundTrip :
    (-2 ^ 23 ≤ (2 ^ 23 - 1 : Int) ∧ (2 ^ 23 - 1 : Int) ≤ 2 ^ 23 - 1) ∧
      (-2 ^ 23 ≤ (-2 ^ 23 : Int) ∧ (-2 ^ 23 : Int) ≤ 2 ^ 23 - 1) := by decide

theorem witness_LdfLoadsTheStagedFrame :
    State.reset.busy = false ∧ (0 : Byte).toNat = (0 : Index).val ∧ (5 : Byte).toNat = (5 : Index).val := by
  decide

theorem witness_LoadpktFillsTheBuffer :
    State.busy { State.reset with schedule := loadPkt packetV45 } = false ∧
      State.schedule { State.reset with schedule := loadPkt packetV45 } = loadPkt packetV45 ++ [] ∧
      (loadPkt packetV45).length = 24 ∧
      State.busy { loaded with schedule := move 65535 (Six.fill 0x80000000) } = false ∧
      State.schedule { loaded with schedule := move 65535 (Six.fill 0x80000000) } =
        move 65535 (Six.fill 0x80000000) ++ [] := by decide

theorem witness_PclrClearsOnlyValid : loaded.busy = false := by decide

theorem witness_AxrstClearsOnlyLast :
    State.busy { loaded with fsm := .satisfied, last := Six.fill 1 } = false := by decide

theorem witness_NopChangesNothing : loaded.busy = false ∧ awaiting.busy = true := by decide

theorem witness_LastIsNeverRead :
    step { State.reset with schedule := [writeReg .cmd 0x00000101] }
      = .next (State.reset.encodeAxis 0) := rfl

theorem witness_SyncComputesTheReferenceSpeed :
    let s := { loaded with pkt := speeds 1 1 1 1 1 0 }
    let u := { loaded with pkt := speeds 1 1 1 1 1 1 }
    s.busy = false ∧ s.pvalid = Six.fill true ∧ speedTotal s.pkt = 5 ∧ u.busy = false ∧
      u.pvalid = Six.fill true ∧ speedTotal u.pkt = 6 := by decide

theorem witness_SyncByDefaultChangesOnlyRefspeed :
    loaded.config.speedNorm = [] ∧ loaded.busy = false ∧ loaded.pvalid = Six.fill true ∧
      (1 : BitVec 16) ≠ 0 ∧ (65535 : BitVec 16) ≠ 0 := by decide

theorem witness_IncompletePacketIsRefused :
    let s := { loaded with pvalid := loaded.pvalid.set 5 false }
    s.busy = false ∧ s.pvalid.get 5 = false ∧ State.reset.pvalid.get 0 = false := by decide

theorem witness_SendStartsThePacket :
    loaded.busy = false ∧ loaded.pvalid = Six.fill true := by decide

theorem witness_TxaccSendsTheNextFrame :
    let s : State := { sending 0 with schedule := [.txacc] }
    let u : State := { sending 5 with schedule := [.txacc, .tick] }
    s.schedule = .txacc :: [] ∧ s.fsm = .sending ∧ s.txIdx.val = (0 : Index).val ∧
      u.schedule = .txacc :: [.tick] ∧ u.fsm = .sending ∧ u.txIdx.val = (5 : Index).val ∧
      (sending 0).enabled .txacc = true ∧ (sending 5).enabled .txacc = true := by
  decide

theorem witness_FrameIsTransmittedWhileSending :
    (sending 0).fsm = .sending ∧ (sending 0).txIdx.val = (0 : Index).val ∧
      (sending 5).fsm = .sending ∧ (sending 5).txIdx.val = (5 : Index).val := by decide

theorem witness_RxRecordsTheLatestStatus :
    let s : State := { awaiting with schedule := [.rx (rxFrame 2 2)] }
    s.schedule = .rx (rxFrame 2 2) :: [] ∧ s.fsm = .awaitingAck ∧ accepted (rxFrame 2 2) ∧
      accepted (rxFrame 1 1) ∧ ¬ accepted (rxFrame 1 3) ∧ ¬ accepted (rxFrame 1 0) ∧
      ¬ accepted (rxFrame 3 2) ∧ ¬ accepted (rxFrame 0x101 2) ∧ ¬ accepted ⟨1, [2], by simp⟩ ∧
      awaiting.enabled (.rx (rxFrame 1 3)) = true := by
  refine ⟨by decide, by decide, ?_, ?_, ?_, ?_, ?_, ?_, ?_, by decide⟩ <;>
    (unfold accepted; decide)

theorem witness_TickCountsAndTimesOut :
    let s : State := { awaiting with schedule := [.tick], timeout := 3, timer := 2 }
    let u : State := { awaiting with schedule := [.tick], timeout := 3, timer := 3 }
    let v : State := { State.reset with schedule := [.tick] }
    (s.schedule = .tick :: [] ∧ s.timerOk) ∧ (u.schedule = .tick :: [] ∧ u.timerOk) ∧
      (v.schedule = .tick :: [] ∧ v.timerOk) := by
  refine ⟨⟨rfl, ?_⟩, ⟨rfl, ?_⟩, rfl, rfl⟩
  · show (2 : Word).toNat ≤ (3 : BitVec 31).toNat; decide
  · show (3 : Word).toNat ≤ (3 : BitVec 31).toNat; decide

/-- Each of the five transitions is taken by some step. -/
theorem witness_FsmMovesOnlyByItsTransitions :
    step { awaiting with schedule := [.tick] } = .next (oneStep awaiting .tick) ∧
      (oneStep awaiting .tick).fsm = .timedOut ∧ (oneStep awaiting .rst).fsm = .idle ∧
      (command loaded 0x00000005).fsm = .sending ∧ (oneStep (sending 5) .txacc).fsm = .awaitingAck ∧
      (oneStep { awaiting with ack2 := .status2 } (.rx (rxFrame 1 2))).fsm = .satisfied :=
  ⟨rfl, by decide⟩

/-- V69 in one schedule: `TIMEOUT` 0, six `TXACC` and a tick. -/
def packetRun : State :=
  { sending 0 with schedule := List.replicate 6 .txacc ++ [.tick] }

/-- `BUSY` after `n` steps. -/
def busyAfter (n : Nat) (s : State) : Bool :=
  match Host.Core.run Sys2Proof.core n s with
  | .next t => t.busy
  | .fault _ => false
  | .refused _ => false

/-- Under way after one step, and resolved after seven: busy in every state before. -/
theorem witness_PacketBarrier :
    packetRun.fsm = .sending ∧ packetRun.txIdx = 0 ∧ Event.rst ∉ packetRun.schedule ∧
      (∀ m u, m < 7 → Host.Core.run Sys2Proof.core m packetRun = .next u → State.busy u = true) ∧
      busyAfter 1 packetRun = true ∧
      ∃ t, Host.Core.run Sys2Proof.core 7 packetRun = .next t ∧ State.busy t = false := by
  refine ⟨by decide, by decide, by decide, fun m u hm hu => ?_, by decide, _, rfl, by decide⟩
  have h : ∀ k < 7, busyAfter k packetRun = true := by decide
  simpa only [busyAfter, hu] using h m hm

theorem witness_OnlyTxaccEmits :
    step { sending 0 with schedule := [.txacc] } = .next (oneStep (sending 0) .txacc) := rfl

theorem witness_EveryStepKeepsInv :
    awaiting.Inv ∧ step { awaiting with schedule := [.tick] } = .next (oneStep awaiting .tick) :=
  ⟨test_inv_awaiting, rfl⟩

theorem witness_PacketTimesOutInBoundedSteps :
    let s : State := { sending 0 with schedule := List.replicate 6 .txacc ++ List.replicate 1 .tick }
    s.fsm = .sending ∧ s.txIdx = 0 ∧
      s.schedule = List.replicate 6 .txacc ++ List.replicate (s.timeout.toNat + 1) .tick ++ [] := by
  decide

/-- Id 1 answers 2 and id 2 never does, with `TIMEOUT` 1; and the other way round with `TIMEOUT` 0. -/
theorem witness_PacketTimesOutInBoundedSteps_silent :
    let es : List Event := [.rx (rxFrame 1 2), .tick]
    let s : State := { sending 0 with timeout := 1
                                      schedule := List.replicate 6 .txacc ++ (es ++ .tick :: []) }
    let fs : List Event := [.rx (rxFrame 2 2)]
    let u : State := { sending 0 with schedule := List.replicate 6 .txacc ++ (fs ++ .tick :: []) }
    (s.fsm = .sending ∧ s.txIdx = 0 ∧ s.staysSilent 2 es ∧ es.count .tick = s.timeout.toNat ∧
      latestStatus 1 0 es = 2) ∧
    u.fsm = .sending ∧ u.txIdx = 0 ∧ u.staysSilent 1 fs ∧ fs.count .tick = u.timeout.toNat ∧
      latestStatus 2 0 fs = 2 := by
  refine ⟨⟨rfl, rfl, ⟨.inr ⟨rfl, rfl⟩, ?_⟩, by decide, rfl⟩, rfl, rfl, ⟨.inl ⟨rfl, rfl⟩, ?_⟩,
    by decide, rfl⟩ <;> simp [rxFrame]

theorem witness_BothAcksSatisfyThePacket :
    let s : State := { awaiting with timeout := 1
                                     schedule := [.tick, .rx (rxFrame 2 2), .rx (rxFrame 1 2)] }
    s.fsm = .awaitingAck ∧ s.ack1 = .noResponse ∧ s.ack2 = .noResponse ∧
      s.timer.toNat + 1 ≤ s.timeout.toNat ∧
      (((rxFrame 2 2).id = 1 ∧ (rxFrame 1 2).id = 2) ∨ ((rxFrame 2 2).id = 2 ∧ (rxFrame 1 2).id = 1)) ∧
      (rxFrame 2 2).data[1]? = some 2 ∧ (rxFrame 1 2).data[1]? = some 2 ∧
      s.schedule = List.replicate 1 .tick ++ .rx (rxFrame 2 2) :: .rx (rxFrame 1 2) :: [] := by decide

/-- Id 2 silent, id 1 answers 2 and a frame of id 3 comes; and id 1 silent after id 2 has answered 2, with
the deciding tick next. -/
theorem witness_BothAcksSatisfyThePacket_silent :
    let es : List Event := [.rx (rxFrame 1 2), .tick, .rx (rxFrame 3 2)]
    let s : State := { awaiting with timeout := 2, timer := 1, schedule := es ++ .tick :: [] }
    let u : State := { awaiting with ack2 := .status2, schedule := [.tick] }
    (s.fsm = .awaitingAck ∧ s.staysSilent 2 es ∧ s.timer.toNat + es.count .tick = s.timeout.toNat ∧
      latestStatus 1 0 es = 2) ∧
    u.fsm = .awaitingAck ∧ u.staysSilent 1 [] ∧
      u.timer.toNat + List.count Event.tick [] = u.timeout.toNat ∧ u.schedule = [] ++ .tick :: [] := by
  refine ⟨⟨rfl, ⟨.inr ⟨rfl, rfl⟩, ?_⟩, by decide, rfl⟩, rfl, ⟨.inl ⟨rfl, rfl⟩, by simp⟩, by decide, rfl⟩
  simp [rxFrame]

theorem witness_ResetLeavesTheStatedValues :
    State.schedule { awaiting with schedule := [.rst, .tick] } = .rst :: [.tick] := by decide

theorem witness_ResetKeepsWhatIsOutside :
    State.schedule { sending 3 with schedule := [.rst], emitted := [⟨1, false, 8, []⟩] } = .rst :: [] := by
  decide

theorem witness_WellFormedScheduleNeverStops :
    wellFormedSchedule [.wr 0x1FC 5, .rd 0x000, .txacc, .rx (rxFrame 1 2), .tick, .rst] := by
  intro e he
  fin_cases he <;> trivial

theorem witness_SequencerStepsLeaveTheBuffer :
    awaiting.perform .tick = .next awaiting.tick ∧
      awaiting.perform (.rx (rxFrame 1 2)) = .next (awaiting.receive (rxFrame 1 2)) ∧
      (sending 0).perform .txacc = .next (sending 0).txAcc := ⟨rfl, rfl, rfl⟩

theorem witness_OneFlagPerStep :
    step { State.reset with schedule := [writeReg .cmd 0x00000005] }
      = .next (State.reset.raise .pkt) := rfl

theorem witness_FlagsClearedOnlyByHostOrReset :
    let s : State := { State.reset with schedule := [.wr 0x008 1], ev := { EventFlags.clear with sat := true } }
    step s = .next State.reset ∧
      (∃ p ∈ List.zip (flagList s.ev) (flagList State.reset.ev), p = (true, false)) :=
  ⟨rfl, by decide⟩

theorem witness_ValidSetOnlyByLoadingCommands :
    step { State.reset with schedule := [writeReg .cmd 0x00000503] }
        = .next (State.reset.fillSlot 5 Frame.zero) ∧
      State.reset.pvalid.get 5 = false ∧ (State.reset.fillSlot 5 Frame.zero).pvalid.get 5 = true :=
  ⟨rfl, rfl, rfl⟩

/-- Either id completes the pair, with a tick in the cycle. -/
theorem witness_AckInTheDecidingCycleSatisfies :
    let s : State := { awaiting with ack1 := .status2, schedule := [.rx (rxFrame 2 2), .tick] }
    let u : State := { awaiting with ack2 := .status2, schedule := [.rx (rxFrame 1 2), .tick] }
    (s.fsm = .awaitingAck ∧ s.completesThePair (rxFrame 2 2) ∧
      s.schedule = s.cycleEvents true (some (rxFrame 2 2)) true none false) ∧
    u.fsm = .awaitingAck ∧ u.completesThePair (rxFrame 1 2) ∧
      u.schedule = u.cycleEvents false (some (rxFrame 1 2)) true none false := by
  refine ⟨⟨rfl, ?_, by decide⟩, rfl, ?_, by decide⟩ <;> (unfold State.completesThePair; decide)

/-- A host write in the cycle in which the acknowledgement, or the tick, resolves the packet. -/
theorem witness_AckInTheDecidingCycleSatisfies_host :
    let s : State := { awaiting with ack1 := .status2
                                     schedule := [.rx (rxFrame 2 2), .tick, .wr 0x018 7] }
    let u : State := { awaiting with schedule := [.tick, .wr 0x018 7] }
    (s.fsm = .awaitingAck ∧ s.completesThePair (rxFrame 2 2) ∧
      s.schedule = s.cycleEvents true (some (rxFrame 2 2)) true (some (.wr 0x018 7)) false) ∧
    u.fsm = .awaitingAck ∧ u.timer.toNat + 1 > u.timeout.toNat ∧
      u.schedule = u.cycleEvents true none true (some (.wr 0x018 7)) false := by
  refine ⟨⟨rfl, ?_, by decide⟩, by decide⟩
  unfold State.completesThePair; decide

/-- The first and the last slot taken in a cycle with a tick and a host write, and a cycle of everything
at once with `RST`. -/
theorem witness_AckInTheDecidingCycleSatisfies_order :
    let s : State := { sending 0 with schedule := [.txacc, .tick, .wr 0x018 7] }
    let u : State := { sending 5 with schedule := [.txacc, .tick, .wr 0x018 7] }
    let v : State := { awaiting with schedule := [.rst] }
    (s.fsm = .sending ∧ s.txIdx.val = (0 : Index).val ∧
      s.schedule = s.cycleEvents true none true (some (.wr 0x018 7)) false) ∧
    (u.fsm = .sending ∧ u.txIdx.val = (5 : Index).val ∧
      u.schedule = u.cycleEvents true (some (rxFrame 1 2)) true (some (.wr 0x018 7)) false) ∧
    v.schedule = v.cycleEvents true (some (rxFrame 1 2)) true (some (.wr 0x018 7)) true := by decide

end Sys2Proof.Tests
end

section
/-! Scope (00_scope.md R6, R7): which event of the schedule a step takes. -/

namespace Sys2Proof.Machine

/-- The converse of `State.firstEnabled_spec`: the events passed over stay in place. -/
theorem State.firstEnabled_append_of_enabled {s : State} {before : List Event} {e : Event}
    (after : List Event) (hb : ∀ x ∈ before, s.enabled x = false) (he : s.enabled e = true) :
    s.firstEnabled (before ++ e :: after) = some (e, before ++ after) := by
  induction before with
  | nil => exact s.firstEnabled_cons_of_enabled e after he
  | cons x xs ih =>
    obtain ⟨hx, hxs⟩ := List.forall_mem_cons.1 hb
    simp [State.firstEnabled, hx, ih hxs]

theorem State.firstEnabled_eq_none {s : State} {es : List Event}
    (h : ∀ x ∈ es, s.enabled x = false) : s.firstEnabled es = none := by
  cases hf : s.firstEnabled es with
  | none => rfl
  | some p =>
    obtain ⟨he, before, after, rfl, -, -⟩ := State.firstEnabled_spec hf
    simp [h p.1 (by simp)] at he

/-- A step takes the event that `State.firstEnabled` finds. -/
theorem step_of_firstEnabled {s : State} {e : Event} {rest : List Event}
    (h : s.firstEnabled s.schedule = some (e, rest)) :
    step s = State.perform { s with schedule := rest } e := by
  simp only [step, h]

/-- With no event enabled the block waits for its agents (log entry 3). -/
theorem step_of_firstEnabled_none {s : State} (h : s.firstEnabled s.schedule = none) :
    step s = .next s := by
  simp only [step, h]

/-- Settles O21: `State.firstEnabled` finds the first enabled event, by induction on the events before it,
and finds none when none is enabled. -/
theorem stepTakesTheFirstEnabledEvent : Obligations.StepTakesTheFirstEnabledEvent := by
  refine ⟨fun s before after e hs hb he => ?taken, fun s hnone => ?idle⟩
  case taken =>
    have hfirst : s.firstEnabled s.schedule = some (e, before ++ after) := by
      rw [hs, State.firstEnabled_append_of_enabled after hb he]
    exact step_of_firstEnabled hfirst
  case idle => exact step_of_firstEnabled_none (State.firstEnabled_eq_none hnone)

end Sys2Proof.Machine
end

section
/-! What the host reads (10_state.md R47, R48; 20_memory.md R62): the register at each address, and the
number each word stands for. -/

namespace Sys2Proof.Machine

/-! The register map. -/

theorem mem_sixRegs (r : Index → HostReg) (i : Index) : r i ∈ sixRegs r := by
  fin_cases i <;> simp [sixRegs]

theorem mem_hostRegs (r : HostReg) : r ∈ hostRegs := by
  cases r <;> simp [hostRegs, mem_sixRegs]

/-- No register of the table hides another one. -/
theorem regAt_regAddr (r : HostReg) : regAt (regAddr r) = some r := by
  have table : ∀ r ∈ hostRegs, regAt (regAddr r) = some r := by decide
  exact table r (mem_hostRegs r)

theorem regAt_eq_some_iff (a : HostAddr) (r : HostReg) : regAt a = some r ↔ regAddr r = a :=
  ⟨fun h => (eq_regAddr_of_regAt h).symm, fun h => h ▸ regAt_regAddr r⟩

/-- A read at a register's address shows the register. -/
@[simp] theorem State.memRead_regAddr (s : State) (r : HostReg) :
    s.memRead (regAddr r) = s.regRead r := by
  simp only [State.memRead, regAt_regAddr]

/-- The numbers of the table of 10_state.md R47 for the axes and slots. -/
theorem regAddr_indexed_toNat (i : Index) :
    (regAddr (.tgt i)).toNat = 0x020 + 4 * i.val ∧ (regAddr (.gear i)).toNat = 0x040 + 4 * i.val ∧
    (regAddr (.lastLo i)).toNat = 0x060 + 8 * i.val ∧
    (regAddr (.lastHi i)).toNat = 0x064 + 8 * i.val ∧
    (regAddr (.initLo i)).toNat = 0x090 + 8 * i.val ∧
    (regAddr (.initHi i)).toNat = 0x094 + 8 * i.val ∧
    (regAddr (.pktw0 i)).toNat = 0x100 + 16 * i.val ∧
    (regAddr (.pktw1 i)).toNat = 0x104 + 16 * i.val ∧
    (regAddr (.pktw2 i)).toNat = 0x108 + 16 * i.val := by
  simp only [regAddr, BitVec.toNat_ofNat]
  omega

/-- Settles O7: `regAt` inverts `regAddr`, the addresses are the table's, and a plain register reads as
its field zero-extended. -/
theorem registerMapIsOneToOne : Obligations.RegisterMapIsOneToOne := by
  refine ⟨regAt_eq_some_iff, by decide, regAddr_indexed_toNat, fun s => ?reads⟩
  case reads =>
    have extended {n : Nat} (x : BitVec n) (hn : n ≤ 32) : (x.setWidth 32).toNat = x.toNat :=
      BitVec.toNat_setWidth_of_le hn
    have read (r : HostReg) : (s.memRead (regAddr r)).toNat = (s.regRead r).toNat := by
      rw [s.memRead_regAddr]
    exact ⟨read .cmd, (read .timeout).trans (extended _ (by decide)), read .timer,
      (read .feed).trans (extended _ (by decide)), (read .refSpeed).trans (extended _ (by decide)),
      (read .inv).trans (extended _ (by decide)),
      fun i => ⟨read (.tgt i), (read (.gear i)).trans (extended _ (by decide))⟩⟩

/-! The fields of `STATUS`, `EV` and `IE` as numbers. -/

@[simp] theorem toNat_ofBool_eq_bitNumber (b : Bool) : (BitVec.ofBool b).toNat = bitNumber b := by
  cases b <;> rfl

@[simp] theorem Fsm.code_toNat (f : Fsm) : f.code.toNat = fsmNumber f := by cases f <;> rfl

@[simp] theorem AckStatus.code_toNat (k : AckStatus) : k.code.toNat = ackNumber k := by
  cases k <;> rfl

theorem State.busy_eq_decide (s : State) :
    s.busy = decide (s.fsm = .sending ∨ s.fsm = .awaitingAck) := by
  rw [Bool.eq_iff_iff, s.busy_iff, decide_eq_true_iff]

theorem pvalidBits_toNat (v : Six Bool) :
    (pvalidBits v).toNat = bitNumber v.e0 + 2 * bitNumber v.e1 + 4 * bitNumber v.e2
      + 8 * bitNumber v.e3 + 16 * bitNumber v.e4 + 32 * bitNumber v.e5 := by
  simp only [pvalidBits, toNat_append_add, toNat_ofBool_eq_bitNumber]
  omega

theorem State.statusWord_toNat (s : State) :
    s.statusWord.toNat = fsmNumber s.fsm + 8 * bitNumber s.busy + 16 * s.txIdx.val
      + 256 * ackNumber s.ack1 + 1024 * ackNumber s.ack2 + 4096 * (pvalidBits s.pvalid).toNat := by
  have hidx : (BitVec.ofNat 3 s.txIdx.val).toNat = s.txIdx.val := by
    have := s.txIdx.isLt
    rw [BitVec.toNat_ofNat]
    omega
  simp only [State.statusWord, toNat_append_add, Fsm.code_toNat, AckStatus.code_toNat,
    toNat_ofBool_eq_bitNumber, hidx, BitVec.toNat_ofNat]
  omega

theorem EventFlags.toWord_toNat (f : EventFlags) : f.toWord.toNat = flagsNumber f := by
  simp only [EventFlags.toWord, flagsNumber, toNat_append_add, toNat_ofBool_eq_bitNumber,
    BitVec.toNat_ofNat]
  omega

/-- Settles O8: the word read at 0x004 is `STATUS`, whose fields add up. -/
theorem statusWordShowsTheSequencer : Obligations.StatusWordShowsTheSequencer := by
  intro s
  rw [show s.memRead 0x004 = s.statusWord from s.memRead_regAddr .status, s.statusWord_toNat,
    s.busy_eq_decide, pvalidBits_toNat]
  rfl

/-- Settles O9: the words read at 0x008 and 0x00C are the register forms of the two sets of flags. -/
theorem eventWordsShowTheFlags : Obligations.EventWordsShowTheFlags := by
  intro s
  rw [show s.memRead 0x008 = s.ev.toWord from s.memRead_regAddr .ev,
    show s.memRead 0x00C = s.ie.toWord from s.memRead_regAddr .ie]
  exact ⟨s.ev.toWord_toNat, s.ie.toWord_toNat⟩

/-! Positions. -/

/-- The two words of a 48-bit position give it back: the high word carries the sign (10_state.md R47). -/
theorem highWord_toInt_lowWord_toNat (p : BitVec 48) :
    (highWord p).toInt * 2 ^ 32 + ((lowWord p).toNat : Int) = p.toInt := by
  have hp := p.isLt
  rw [highWord, lowWord, BitVec.toInt_signExtend_of_le (by decide), BitVec.toInt_eq_toNat_cond,
    BitVec.toInt_eq_toNat_cond, toNat_extract, toNat_extract]
  split <;> split <;> omega

/-- A pair of registers that hold the words of a position reads as the position. -/
theorem State.memRead_position (s : State) {hi lo : HostReg} {p : BitVec 48}
    (hhi : s.regRead hi = highWord p) (hlo : s.regRead lo = lowWord p) :
    (s.memRead (regAddr hi)).toInt * 2 ^ 32 + ((s.memRead (regAddr lo)).toNat : Int) = p.toInt := by
  rw [s.memRead_regAddr, s.memRead_regAddr, hhi, hlo]
  exact highWord_toInt_lowWord_toNat p

/-- Settles O11: the registers of an axis hold the words of its `LAST` and of its `INIT`. -/
theorem positionsReadAsTwoWords : Obligations.PositionsReadAsTwoWords := fun s i =>
  ⟨s.memRead_position (hi := .lastHi i) (lo := .lastLo i) rfl rfl,
    s.memRead_position (hi := .initHi i) (lo := .initLo i) rfl rfl⟩

end Sys2Proof.Machine
end

section
/-! The invariant of `INIT`, `PVALID`, `TXIDX`, `ACK` and `TIMER` against `FSM` (10_state.md R28, R41 to
R43; 43_transmit.md R186): what it says in each sequencer state, and that each effect of a step keeps it. -/

namespace Sys2Proof.Machine

variable {s t : State}

/-! The invariant, sequencer state by sequencer state. -/

theorem State.inv_idle_iff (h : s.fsm = .idle) :
    s.Inv ↔ s.init = Six.fill 0 ∧ s.txIdx.val = 0 ∧
      (s.ack1 = .noResponse ∧ s.ack2 = .noResponse) ∧ s.timer.toNat = 0 := by
  simp [State.Inv, State.txIdxOk, State.ackOk, State.timerOk, State.busy, Fsm.busy, h]

theorem State.inv_sending_iff (h : s.fsm = .sending) :
    s.Inv ↔ s.init = Six.fill 0 ∧ s.pvalid = Six.fill false ∧ s.txIdx.val < 6 ∧
      (s.ack1 = .noResponse ∧ s.ack2 = .noResponse) ∧ s.timer.toNat = 0 := by
  simp [State.Inv, State.txIdxOk, State.ackOk, State.timerOk, State.busy, Fsm.busy, h]

theorem State.inv_awaitingAck_iff (h : s.fsm = .awaitingAck) :
    s.Inv ↔ s.init = Six.fill 0 ∧ s.pvalid = Six.fill false ∧ s.txIdx.val = 6 ∧
      s.bothDone = false ∧ s.timer.toNat ≤ s.timeout.toNat := by
  simp [State.Inv, State.txIdxOk, State.ackOk, State.timerOk, State.busy, Fsm.busy, h]

theorem State.inv_satisfied_iff (h : s.fsm = .satisfied) :
    s.Inv ↔ s.init = Six.fill 0 ∧ s.txIdx.val = 6 ∧ s.bothDone = true ∧ s.timer.toNat < 2 ^ 31 := by
  simp [State.Inv, State.txIdxOk, State.ackOk, State.timerOk, State.busy, Fsm.busy, h]

theorem State.inv_timedOut_iff (h : s.fsm = .timedOut) :
    s.Inv ↔ s.init = Six.fill 0 ∧ s.txIdx.val = 6 ∧ s.bothDone = false ∧
      1 ≤ s.timer.toNat ∧ s.timer.toNat ≤ 2 ^ 31 := by
  simp [State.Inv, State.txIdxOk, State.ackOk, State.timerOk, State.busy, Fsm.busy, h]

/-! Steps that leave the sequencer alone. -/

/-- `t` has the `INIT` and the sequencer registers of `s`; `PVALID` and `TIMEOUT` may differ. -/
def State.SameSequencer (s t : State) : Prop :=
  t.init = s.init ∧ t.fsm = s.fsm ∧ t.txIdx = s.txIdx ∧ t.ack1 = s.ack1 ∧ t.ack2 = s.ack2 ∧
    t.timer = s.timer

theorem State.SameSequencer.refl (s : State) : s.SameSequencer s := ⟨rfl, rfl, rfl, rfl, rfl, rfl⟩

theorem State.regWrite_sameSequencer (s : State) (r : HostReg) (v : Word) :
    s.SameSequencer (s.regWrite r v) := by
  simp [State.SameSequencer]

/-- At rest the invariant speaks of nothing else: slots may be filled and `TIMEOUT` rewritten (log
entry 19). -/
theorem State.SameSequencer.inv_at_rest (h : s.SameSequencer t) (hb : s.busy = false) (hi : s.Inv) :
    t.Inv := by
  obtain ⟨hinit, hfsm, hidx, hack1, hack2, htimer⟩ := h
  have hdone : t.bothDone = s.bothDone := by simp only [State.bothDone, hack1, hack2]
  cases hs : s.fsm with
  | idle =>
    rw [State.inv_idle_iff (hfsm.trans hs), hinit, hidx, hack1, hack2, htimer]
    exact (State.inv_idle_iff hs).1 hi
  | sending => simp [State.busy, hs, Fsm.busy] at hb
  | awaitingAck => simp [State.busy, hs, Fsm.busy] at hb
  | satisfied =>
    rw [State.inv_satisfied_iff (hfsm.trans hs), hinit, hidx, hdone, htimer]
    exact (State.inv_satisfied_iff hs).1 hi
  | timedOut =>
    rw [State.inv_timedOut_iff (hfsm.trans hs), hinit, hidx, hdone, htimer]
    exact (State.inv_timedOut_iff hs).1 hi

/-! Steps of the sequencer. -/

/-- `SEND` starts the packet with every slot invalid (43_transmit.md R186). -/
theorem State.inv_startPacket (hinit : s.init = Six.fill 0) : s.startPacket.Inv :=
  (State.inv_sending_iff rfl).2 ⟨hinit, rfl, by simp, ⟨rfl, rfl⟩, rfl⟩

/-- After slot 5 the wait begins with `TIMER` at 0, before that `TXIDX` stays below 6
(43_transmit.md R195). -/
theorem State.inv_transmit {i : Index} (f : Frame) (hs : s.fsm = .sending) (hi : s.Inv) :
    (s.transmit i f).Inv := by
  obtain ⟨hinit, hvalid, -, ⟨hack1, hack2⟩, htimer⟩ := (State.inv_sending_iff hs).1 hi
  by_cases hlast : i.val = 5
  · obtain ⟨hfsm, htimer'⟩ := s.transmit_last_slot i f hlast
    rw [State.inv_awaitingAck_iff hfsm]
    simp [State.bothDone, hinit, hvalid, hlast, hack1, hack2, htimer']
  · obtain ⟨hfsm, htimer'⟩ := s.transmit_earlier_slot i f hlast
    rw [State.inv_sending_iff (hfsm.trans hs)]
    have := i.isLt
    simp [hinit, hvalid, hack1, hack2, htimer', htimer]
    omega

/-- A status recorded while awaiting resolves the packet exactly when both are 2 (43_transmit.md R200,
R202). -/
theorem State.inv_resolve (hs : s.fsm = .awaitingAck) (hinit : s.init = Six.fill 0)
    (hvalid : s.pvalid = Six.fill false) (hidx : s.txIdx.val = 6)
    (htimer : s.timer.toNat ≤ s.timeout.toNat) : s.resolve.Inv := by
  rcases s.resolve_cases with ⟨hdone, h⟩ | ⟨hdone, h⟩ <;> rw [h]
  · have := s.timeout.isLt
    exact (State.inv_satisfied_iff rfl).2 ⟨hinit, hidx, hdone, by dsimp only; omega⟩
  · exact (State.inv_awaitingAck_iff hs).2 ⟨hinit, hvalid, hidx, hdone, htimer⟩

/-- `TIMER` does not wrap while it is at most `TIMEOUT`, which has 31 bits (log entry 12). -/
theorem State.timer_succ_toNat (h : s.timer.toNat ≤ s.timeout.toNat) :
    (s.timer + 1).toNat = s.timer.toNat + 1 := by
  have := s.timeout.isLt
  rw [BitVec.toNat_add]
  simp
  omega

theorem State.inv_hardwareReset (s : State) : s.hardwareReset.Inv :=
  (State.inv_idle_iff rfl).2 ⟨rfl, rfl, ⟨rfl, rfl⟩, rfl⟩

/-- Each effect of a step keeps the invariant. -/
theorem Effect.keeps_inv {e : Event} (h : Effect s e t) (hi : s.Inv) : t.Inv := by
  have rest {t : State} (hb : s.busy = false) (ht : s.SameSequencer t) : t.Inv :=
    ht.inv_at_rest hb hi
  cases h with
  | busy => exact hi
  | ignored => exact hi
  | stored r v hb _ => exact rest hb (s.regWrite_sameSequencer r v)
  | refused => exact hi
  | encf _ _ hb _ => exact rest hb (.refl s)
  | encp _ hb _ => exact rest hb (.refl s)
  | ldf _ _ hb _ => exact rest hb (.refl s)
  | sync _ hb _ _ => exact rest hb (.refl s)
  | send => exact State.inv_startPacket hi.1
  | axrst _ hb _ => exact rest hb (.refl s)
  | pclr _ hb _ => exact rest hb (.refl s)
  | rd => exact hi
  | txacc i hs _ => exact State.inv_transmit _ hs hi
  | rxIgnored => exact hi
  | rxFirst _ _ hs _ _ =>
    obtain ⟨hinit, hvalid, hidx, -, htimer⟩ := (State.inv_awaitingAck_iff hs).1 hi
    exact State.inv_resolve hs hinit hvalid hidx htimer
  | rxSecond _ _ hs _ _ =>
    obtain ⟨hinit, hvalid, hidx, -, htimer⟩ := (State.inv_awaitingAck_iff hs).1 hi
    exact State.inv_resolve hs hinit hvalid hidx htimer
  | tickIdle => exact hi
  | tickCounts hs hle =>
    obtain ⟨hinit, hvalid, hidx, hdone, htimer⟩ := (State.inv_awaitingAck_iff hs).1 hi
    exact (State.inv_awaitingAck_iff (s := { s with timer := s.timer + 1 }) hs).2
      ⟨hinit, hvalid, hidx, hdone, (State.timer_succ_toNat htimer).trans_le hle⟩
  | tickTimesOut hs _ =>
    obtain ⟨hinit, hvalid, hidx, hdone, htimer⟩ := (State.inv_awaitingAck_iff hs).1 hi
    have hsucc := State.timer_succ_toNat htimer
    have := s.timeout.isLt
    exact (State.inv_timedOut_iff rfl).2
      ⟨hinit, hidx, hdone, by dsimp only; omega, by dsimp only; omega⟩
  | rst => exact s.inv_hardwareReset

/-- Settles O50: a step does nothing or has one of the effects, and the invariant does not speak of the
schedule. -/
theorem everyStepKeepsInv : Obligations.EveryStepKeepsInv := by
  intro s t hi h
  rcases step_effect h with ⟨-, rfl⟩ | ⟨e, rest, -, -, -, heffect⟩
  · exact hi
  · exact heffect.keeps_inv hi

end Sys2Proof.Machine
end

section
/-! LAST and the read record (10_state.md R29, 20_memory.md R62): every step carries agreement but for
these two to its next state. -/

namespace Sys2Proof.Machine

/-- `u` is `s` but for `LAST` and the record of the values read. -/
def State.AgreesButLast (s u : State) : Prop :=
  ∃ (l : Six (BitVec 48)) (r : List Word), u = { s with last := l, hostReads := r }

namespace State.AgreesButLast

variable {s u s' u' : State}

/-- One test decides both sides alike. -/
theorem of_ite {p : Prop} [Decidable p] (ht : AgreesButLast s u) (hf : AgreesButLast s' u') :
    AgreesButLast (if p then s else s') (if p then u else u') := by
  split
  · exact ht
  · exact hf

/-! What the two states have in common. -/

theorem presentedSlot_eq (h : AgreesButLast s u) : u.presentedSlot = s.presentedSlot := by
  obtain ⟨l, r, rfl⟩ := h
  rfl

theorem busy_eq (h : AgreesButLast s u) : u.busy = s.busy := by
  obtain ⟨l, r, rfl⟩ := h
  rfl

theorem firstEnabled_eq (h : AgreesButLast s u) :
    u.firstEnabled u.schedule = s.firstEnabled s.schedule := by
  obtain ⟨l, r, rfl⟩ := h
  exact State.firstEnabled_congr (s := { s with last := l, hostReads := r }) (u := s) rfl rfl _

theorem withSchedule (es : List Event) (h : AgreesButLast s u) :
    AgreesButLast { s with schedule := es } { u with schedule := es } := by
  obtain ⟨l, r, rfl⟩ := h
  exact ⟨l, r, rfl⟩

/-! The operations of a host write. -/

theorem raise (e : Err) (h : AgreesButLast s u) : AgreesButLast (s.raise e) (u.raise e) := by
  obtain ⟨l, r, rfl⟩ := h
  exact ⟨l, r, rfl⟩

theorem unlessBusy (h : AgreesButLast s u) (h' : AgreesButLast s' u') :
    AgreesButLast (s.unlessBusy s') (u.unlessBusy u') := by
  unfold State.unlessBusy
  rw [h.busy_eq]
  exact of_ite (h.raise .busy) h'

theorem ifComplete (h : AgreesButLast s u) (h' : AgreesButLast s' u') :
    AgreesButLast (s.ifComplete s') (u.ifComplete u') := by
  have hraise := h.raise .pkt
  obtain ⟨l, r, rfl⟩ := h
  exact of_ite h' hraise

theorem fillSlot (i : Index) (f : Frame) (h : AgreesButLast s u) :
    AgreesButLast (s.fillSlot i f) (u.fillSlot i f) := by
  obtain ⟨l, r, rfl⟩ := h
  exact ⟨l, r, rfl⟩

theorem encodeAxis (i : Index) (h : AgreesButLast s u) :
    AgreesButLast (s.encodeAxis i) (u.encodeAxis i) := by
  obtain ⟨l, r, rfl⟩ := h
  exact ⟨l.set i (BitVec.ofInt 48 (s.positionOf i)), r, rfl⟩

theorem encodeAll (h : AgreesButLast s u) : AgreesButLast s.encodeAll u.encodeAll := by
  obtain ⟨l, r, rfl⟩ := h
  exact ⟨s.encodeAll.last, r, rfl⟩

theorem normalize (h : AgreesButLast s u) : AgreesButLast s.normalize u.normalize := by
  obtain ⟨l, r, rfl⟩ := h
  exact ⟨l, r, rfl⟩

theorem startPacket (h : AgreesButLast s u) : AgreesButLast s.startPacket u.startPacket := by
  obtain ⟨l, r, rfl⟩ := h
  exact ⟨l, r, rfl⟩

theorem clearValid (h : AgreesButLast s u) : AgreesButLast s.clearValid u.clearValid := by
  obtain ⟨l, r, rfl⟩ := h
  exact ⟨l, r, rfl⟩

theorem clearLast (h : AgreesButLast s u) : AgreesButLast s.clearLast u.clearLast := by
  obtain ⟨l, r, rfl⟩ := h
  exact ⟨Six.fill 0, r, rfl⟩

theorem regWrite (g : HostReg) (v : Word) (h : AgreesButLast s u) :
    AgreesButLast (s.regWrite g v) (u.regWrite g v) := by
  obtain ⟨l, r, rfl⟩ := h
  exact ⟨l, r, by cases g <;> rfl⟩

/-! The operations of the other agents. -/

theorem transmit (i : Index) (f : Frame) (h : AgreesButLast s u) :
    AgreesButLast (s.transmit i f) (u.transmit i f) := by
  obtain ⟨l, r, rfl⟩ := h
  exact of_ite ⟨l, r, rfl⟩ ⟨l, r, rfl⟩

theorem txAcc (h : AgreesButLast s u) : AgreesButLast s.txAcc u.txAcc := by
  have hk : u.pkt = s.pkt := by obtain ⟨l, r, rfl⟩ := h; rfl
  cases hs : s.presentedSlot with
  | none => rwa [State.txAcc_of_none hs, State.txAcc_of_none (h.presentedSlot_eq.trans hs)]
  | some i =>
    rw [State.txAcc_of_presented hs, State.txAcc_of_presented (h.presentedSlot_eq.trans hs), hk]
    exact h.transmit i _

theorem resolve (h : AgreesButLast s u) : AgreesButLast s.resolve u.resolve := by
  obtain ⟨l, r, rfl⟩ := h
  exact of_ite ⟨l, r, rfl⟩ ⟨l, r, rfl⟩

theorem recordAck (id : BitVec 11) (st : AckStatus) (h : AgreesButLast s u) :
    AgreesButLast (s.recordAck id st) (u.recordAck id st) := by
  obtain ⟨l, r, rfl⟩ := h
  exact of_ite (resolve ⟨l, r, rfl⟩) (of_ite (resolve ⟨l, r, rfl⟩) ⟨l, r, rfl⟩)

theorem receive (f : RxFrame) (h : AgreesButLast s u) :
    AgreesButLast (s.receive f) (u.receive f) := by
  have hfsm : u.fsm = s.fsm := by obtain ⟨l, r, rfl⟩ := h; rfl
  unfold State.receive
  rw [hfsm]
  cases statusOf f with
  | none => exact of_ite h h
  | some st => exact of_ite (h.recordAck f.id st) h

theorem tick (h : AgreesButLast s u) : AgreesButLast s.tick u.tick := by
  obtain ⟨l, r, rfl⟩ := h
  exact of_ite (of_ite ⟨l, r, rfl⟩ ⟨l, r, rfl⟩) ⟨l, r, rfl⟩

theorem hardwareReset (h : AgreesButLast s u) :
    AgreesButLast s.hardwareReset u.hardwareReset := by
  obtain ⟨l, r, rfl⟩ := h
  exact ⟨Six.fill 0, r, rfl⟩

/-- A read hands `LAST` to the host only, so the two records may differ after it. -/
theorem appendRead (a : HostAddr) (h : AgreesButLast s u) :
    AgreesButLast { s with hostReads := s.hostReads ++ [s.memRead a] }
      { u with hostReads := u.hostReads ++ [u.memRead a] } := by
  obtain ⟨l, r, rfl⟩ := h
  exact ⟨l, _, rfl⟩

end State.AgreesButLast

/-- Both outcomes are next states that agree, or both stop for the same reason. -/
inductive OutcomesAgree :
    Host.Outcome State Fault Refusal → Host.Outcome State Fault Refusal → Prop
  | next {t t' : State} : t.AgreesButLast t' → OutcomesAgree (.next t) (.next t')
  | refused (r : Refusal) : OutcomesAgree (.refused r) (.refused r)

variable {s u : State}

theorem exec_agrees (i : Instr) (h : s.AgreesButLast u) : OutcomesAgree (exec i s) (exec i u) := by
  cases i with
  | nop => exact .next (h.unlessBusy h)
  | encf a =>
    refine .next (h.unlessBusy ?_)
    cases axisOperand a with
    | none => exact h.raise .arg
    | some j => exact h.encodeAxis j
  | encp => exact .next (h.unlessBusy h.encodeAll)
  | ldf a =>
    have hfin : u.fin = s.fin := by obtain ⟨l, r, rfl⟩ := h; rfl
    refine .next (h.unlessBusy ?_)
    cases slotOperand a with
    | none => exact h.raise .arg
    | some j => rw [hfin]; exact h.fillSlot j s.fin
  | sync => exact .next (h.unlessBusy (h.ifComplete h.normalize))
  | send => exact .next (h.unlessBusy (h.ifComplete h.normalize.startPacket))
  | axrst => exact .next (h.unlessBusy h.clearLast)
  | pclr => exact .next (h.unlessBusy h.clearValid)
  | frame axis speed disp checksum =>
    refine .next ?_
    rw [h.presentedSlot_eq]
    cases s.presentedSlot with
    | none => exact h
    | some j => exact h.transmit j _

theorem command_agrees (w : Word) (h : s.AgreesButLast u) :
    OutcomesAgree (s.command w) (u.command w) := by
  unfold State.command
  cases decodeCommand w with
  | ok i => exact exec_agrees i h
  | error e => exact .next (h.raise .op)

theorem memWrite_agrees (a : HostAddr) (v : Word) (h : s.AgreesButLast u) :
    OutcomesAgree (s.memWrite a v) (u.memWrite a v) := by
  unfold State.memWrite
  rw [h.busy_eq]
  split
  · exact .next (h.raise .busy)
  · split
    · exact .next h
    · exact command_agrees v h
    · exact .next (h.regWrite _ v)

/-- The step of every agent carries the agreement on. -/
theorem perform_agrees (e : Event) (h : s.AgreesButLast u) :
    OutcomesAgree (s.perform e) (u.perform e) := by
  cases e with
  | wr a v =>
    simp only [State.perform, State.hostWrite]
    split
    · exact memWrite_agrees a v h
    · exact .refused _
  | rd a =>
    simp only [State.perform, State.hostRead]
    split
    · exact .next (h.appendRead a)
    · exact .refused _
  | txacc => exact .next h.txAcc
  | rx f => exact .next (h.receive f)
  | tick => exact .next h.tick
  | rst => exact .next h.hardwareReset

/-- The two states choose the same event, and its step carries the agreement on. -/
theorem step_agrees (h : s.AgreesButLast u) : OutcomesAgree (step s) (step u) := by
  cases hs : s.firstEnabled s.schedule with
  | none =>
    rw [step_of_firstEnabled_none hs, step_of_firstEnabled_none (h.firstEnabled_eq.trans hs)]
    exact .next h
  | some p =>
    rw [step_of_firstEnabled hs, step_of_firstEnabled (h.firstEnabled_eq.trans hs)]
    exact perform_agrees p.1 (h.withSchedule p.2)

/-- Settles O37: the state with another `LAST` and another record agrees with `s`, and so do the
outcomes of the step. -/
theorem lastIsNeverRead : Obligations.LastIsNeverRead := by
  intro s t l r h
  have hagree := step_agrees (s := s) ⟨l, r, rfl⟩
  rw [h] at hagree
  generalize step { s with last := l, hostReads := r } = outcome at hagree
  cases hagree with
  | next ht =>
    obtain ⟨l', r', rfl⟩ := ht
    exact ⟨l', r', rfl⟩

end Sys2Proof.Machine
end

section
/-! What may clear a flag of `EV` (10_state.md R45) and what may set a bit of `PVALID` (10_state.md
R32): the effects of a step, one by one. -/

namespace Sys2Proof.Machine

variable {s t : State} {e : Event}

/-! Flags that stay set. -/

/-- Every flag set in `f` is set in `g`. -/
def EventFlags.Within (f g : EventFlags) : Prop :=
  ∀ p ∈ List.zip (flagList f) (flagList g), p ≠ (true, false)

theorem EventFlags.within_refl (f : EventFlags) : f.Within f := by
  simp [EventFlags.Within, flagList]

theorem EventFlags.within_withErr (f : EventFlags) (e : Err) : f.Within (f.withErr e) := by
  cases e <;> simp [EventFlags.Within, flagList, EventFlags.withErr]

theorem EventFlags.within_sat (f : EventFlags) : f.Within { f with sat := true } := by
  simp [EventFlags.Within, flagList]

theorem EventFlags.within_timedOut (f : EventFlags) : f.Within { f with timedOut := true } := by
  simp [EventFlags.Within, flagList]

theorem State.ev_within_resolve (s : State) : s.ev.Within s.resolve.ev := by
  rcases s.resolve_cases with ⟨-, h⟩ | ⟨-, h⟩ <;> rw [h]
  · exact s.ev.within_sat
  · exact s.ev.within_refl

theorem State.regWrite_ev_of_ne {r : HostReg} (h : r ≠ .ev) (s : State) (v : Word) :
    (s.regWrite r v).ev = s.ev := by
  cases r with
  | ev => exact absurd rfl h
  | _ => rfl

/-- Every effect but a reset and an accepted write to `EV` keeps the flags that are set. -/
theorem Effect.ev_within (h : Effect s e t) :
    e = .rst ∨ (s.busy = false ∧ ∃ v, e = .wr 0x008 v) ∨ s.ev.Within t.ev := by
  cases h with
  | stored r v hb _ =>
    by_cases hr : r = .ev
    · exact .inr (.inl ⟨hb, v, by rw [hr]; rfl⟩)
    · rw [State.regWrite_ev_of_ne hr]
      exact .inr (.inr s.ev.within_refl)
  | rst => exact .inl rfl
  | busy => exact .inr (.inr (s.ev.within_withErr _))
  | refused => exact .inr (.inr (s.ev.within_withErr _))
  | rxFirst _ st => exact .inr (.inr (State.ev_within_resolve { s with ack1 := st }))
  | rxSecond _ st => exact .inr (.inr (State.ev_within_resolve { s with ack2 := st }))
  | tickTimesOut => exact .inr (.inr s.ev.within_timedOut)
  | txacc => exact .inr (.inr (by simpa using s.ev.within_refl))
  | _ => exact .inr (.inr s.ev.within_refl)

/-- Settles O58: a step does nothing or has one of the effects. -/
theorem flagsClearedOnlyByHostOrReset : Obligations.FlagsClearedOnlyByHostOrReset := by
  rintro s t h ⟨p, hp, hcleared⟩
  rcases step_effect h with ⟨-, rfl⟩ | ⟨e, rest, hnext, -, -, heffect⟩
  · exact absurd hcleared (t.ev.within_refl p hp)
  · rw [hnext]
    rcases heffect.ev_within with rfl | ⟨hb, v, rfl⟩ | hwithin
    · exact .inl rfl
    · exact .inr ⟨hb, v, rfl⟩
    · exact absurd hcleared (hwithin p hp)

/-! Slots that become valid. -/

/-- Every effect but a loading command sets no bit of `PVALID`. -/
theorem Effect.pvalid_set (h : Effect s e t) {i : Index} (hs : s.pvalid.get i = false)
    (ht : t.pvalid.get i = true) :
    s.busy = false ∧ ∃ w, e = .wr 0x000 w ∧
      (decodeCommand w = .ok (.encf (BitVec.ofNat 8 (i.val + 1))) ∨ decodeCommand w = .ok .encp ∨
        decodeCommand w = .ok (.ldf (BitVec.ofNat 8 i.val))) := by
  have filled {j : Index} (hj : (s.pvalid.set j true).get i = true) : j = i := by
    by_contra hne
    rw [Six.get_set_of_ne _ (Ne.symm hne), hs] at hj
    cases hj
  cases h with
  | encf w j hb hd =>
    obtain rfl := filled ht
    exact ⟨hb, w, rfl, .inl hd⟩
  | encp w hb hd => exact ⟨hb, w, rfl, .inr (.inl hd)⟩
  | ldf w j hb hd =>
    obtain rfl := filled ht
    exact ⟨hb, w, rfl, .inr (.inr hd)⟩
  | rst => simp [State.reset] at ht
  | _ => simp [hs] at ht

/-- Settles O59: a step does nothing or has one of the effects. -/
theorem validSetOnlyByLoadingCommands : Obligations.ValidSetOnlyByLoadingCommands := by
  intro s t i h hs ht
  rcases step_effect h with ⟨-, rfl⟩ | ⟨e, rest, hnext, -, -, heffect⟩
  · exact absurd ht (by simp [hs])
  · rw [hnext]
    obtain ⟨hb, w, rfl, hw⟩ := heffect.pvalid_set hs ht
    exact ⟨hb, w, rfl, hw⟩

end Sys2Proof.Machine
end

section
/-! Host accesses (20_memory.md R62 to R72): what a write answers, case by case of R63, and what a read
shows after it. -/

namespace Sys2Proof.Machine

variable {s : State} {a : HostAddr} {r : HostReg} {i : Instr} {m w : Word}

/-! Aligned addresses. -/

theorem aligned_iff : aligned a = true ↔ a.toNat % 4 = 0 := by
  rw [aligned, beq_iff_eq, ← BitVec.toNat_inj, toNat_extract]
  simp

theorem aligned_regAddr (r : HostReg) : aligned (regAddr r) = true := by
  have table : ∀ r ∈ hostRegs, aligned (regAddr r) = true := by decide
  exact table r (mem_hostRegs r)

theorem State.hostWrite_of_aligned (s : State) (h : aligned a = true) (v : Word) :
    s.hostWrite a v = s.memWrite a v := if_pos h

theorem State.hostRead_of_aligned (s : State) (h : aligned a = true) :
    s.hostRead a = .next { s with hostReads := s.hostReads ++ [s.memRead a] } := if_pos h

theorem State.hostWrite_of_unaligned (s : State) (h : aligned a = false) (v : Word) :
    s.hostWrite a v = .refused (.unalignedHostAccess a) := by
  simp [State.hostWrite, h]

theorem State.hostRead_of_unaligned (s : State) (h : aligned a = false) :
    s.hostRead a = .refused (.unalignedHostAccess a) := by
  simp [State.hostRead, h]

theorem step_rd {rest : List Event} (h : s.schedule = .rd a :: rest) :
    step s = State.hostRead { s with schedule := rest } a :=
  step_of_enabled h rfl

/-! A write, in the order of 20_memory.md R63. -/

theorem State.hostWrite_of_busy (hb : s.busy = true) (ha : aligned a = true) (v : Word) :
    s.hostWrite a v = .next (s.raise .busy) := by
  rw [s.hostWrite_of_aligned ha, State.memWrite, if_pos hb]

theorem State.hostWrite_of_reserved (hb : s.busy = false) (ha : aligned a = true)
    (hr : regAt a = none) (v : Word) : s.hostWrite a v = .next s := by
  simp [s.hostWrite_of_aligned ha, State.memWrite, hb, hr]

theorem State.hostWrite_cmd (hb : s.busy = false) (w : Word) :
    s.hostWrite (regAddr .cmd) w = s.command w := by
  simp [s.hostWrite_of_aligned (aligned_regAddr .cmd), State.memWrite, hb, regAt_regAddr]

theorem State.hostWrite_regAddr (hb : s.busy = false) (hr : r ≠ .cmd) (v : Word) :
    s.hostWrite (regAddr r) v = .next (s.regWrite r v) := by
  rw [s.hostWrite_of_aligned (aligned_regAddr r)]
  obtain ⟨t, ht⟩ := memWrite_answers_next s (regAddr r) v
  rw [ht]
  rcases memWrite_cases ht with ⟨hb', -⟩ | ⟨-, hn, -⟩ | ⟨-, hc, -⟩ | ⟨-, q, -, hq, rfl⟩
  · simp [hb] at hb'
  · simp [regAt_regAddr] at hn
  · exact absurd (Option.some.inj ((regAt_regAddr r).symm.trans hc)) hr
  · rw [Option.some.inj ((regAt_regAddr r).symm.trans hq)]

/-- Every command makes the busy check of a host write itself (60_exceptions.md R275). -/
theorem exec_of_busy (hb : s.busy = true)
    (hi : ∀ axis speed disp checksum, i ≠ .frame axis speed disp checksum) :
    exec i s = .next (s.raise .busy) := by
  cases i with
  | frame axis speed disp checksum => exact absurd rfl (hi axis speed disp checksum)
  | _ => exact congrArg _ (State.unlessBusy_of_busy _ hb)

theorem State.command_of_decode (s : State) (hd : decodeCommand w = .ok i) :
    s.command w = exec i s := by
  simp only [State.command, hd]

/-- The busy check of the write to `CMD` and that of the command are the same one. -/
theorem State.hostWrite_command (s : State) (hd : decodeCommand w = .ok i) :
    s.hostWrite (regAddr .cmd) w = exec i s := by
  cases hb : s.busy with
  | false => rw [State.hostWrite_cmd hb, s.command_of_decode hd]
  | true =>
    rw [State.hostWrite_of_busy hb (aligned_regAddr .cmd)]
    exact (exec_of_busy hb fun _ _ _ _ h => decodeCommand_ne_frame (h ▸ hd)).symm

/-! The flags as bits of a word (10_state.md R45). -/

theorem EventFlags.getLsbD_toWord (f : EventFlags) (k : Nat) :
    f.toWord.getLsbD k = ((k == 0 && f.sat) || (k == 1 && f.timedOut) || (k == 8 && f.errBusy)
      || (k == 9 && f.errPkt) || (k == 10 && f.errArg) || (k == 11 && f.errOp)) := by
  by_cases hk : k < 32
  · refine (BitVec.getLsbD_append ..).trans ?_
    simp only [BitVec.getLsbD_append]
    interval_cases k <;> simp
  · rw [BitVec.getLsbD_of_ge _ _ (by omega)]
    simp
    omega

theorem EventFlags.toWord_ofWord (v : Word) : (EventFlags.ofWord v).toWord = v &&& 0x00000F03 := by
  apply BitVec.eq_of_getLsbD_eq
  intro k hk
  rw [EventFlags.getLsbD_toWord, BitVec.getLsbD_and]
  interval_cases k <;> simp [EventFlags.ofWord]

theorem EventFlags.toWord_clearBy (f : EventFlags) (v : Word) :
    (f.clearBy (EventFlags.ofWord v)).toWord = f.toWord &&& ~~~v := by
  apply BitVec.eq_of_getLsbD_eq
  intro k hk
  rw [BitVec.getLsbD_and, EventFlags.getLsbD_toWord, EventFlags.getLsbD_toWord, BitVec.getLsbD_not]
  interval_cases k <;> simp [EventFlags.clearBy, EventFlags.ofWord]

theorem EventFlags.toWord_withErr_busy (f : EventFlags) :
    (f.withErr .busy).toWord = f.toWord ||| 0x100 := by
  apply BitVec.eq_of_getLsbD_eq
  intro k hk
  rw [BitVec.getLsbD_or, EventFlags.getLsbD_toWord, EventFlags.getLsbD_toWord]
  interval_cases k <;> simp [EventFlags.withErr]

/-! The words of a Frame written and read back (30_encoding.md R104). -/

theorem word_of_bytes (v : Word) :
    ((v.extractLsb' 24 8 ++ v.extractLsb' 16 8) ++ v.extractLsb' 8 8) ++ v.extractLsb' 0 8 = v := by
  have high : v.extractLsb' 24 8 ++ v.extractLsb' 16 8 = v.extractLsb' 16 16 :=
    extract_append_extract v 16 8 8
  have upper : v.extractLsb' 16 16 ++ v.extractLsb' 8 8 = v.extractLsb' 8 24 :=
    extract_append_extract v 8 16 8
  rw [high, upper]
  exact append_extract (a := 24) (b := 8) v

theorem word_toNat_of_bytes (v : Word) :
    v.toNat = 2 ^ 24 * (v.extractLsb' 24 8).toNat + 2 ^ 16 * (v.extractLsb' 16 8).toNat
      + 2 ^ 8 * (v.extractLsb' 8 8).toNat + (v.extractLsb' 0 8).toNat := by
  have := v.isLt
  simp only [toNat_extract]
  omega

/-! What a register shows after a write. -/

/-- The low `n` bits of a word, zero-extended (20_memory.md R66). -/
theorem setWidth_setWidth_eq_and (v : Word) {n : Nat} (hn : n ≤ 32) :
    (v.setWidth n).setWidth 32 = v &&& BitVec.ofNat 32 (2 ^ n - 1) := by
  apply BitVec.eq_of_toNat_eq
  have hlow : 2 ^ n - 1 < 2 ^ 32 :=
    (Nat.sub_lt (Nat.two_pow_pos n) one_pos).trans_le (Nat.pow_le_pow_right two_pos hn)
  rw [BitVec.toNat_setWidth_of_le hn, BitVec.toNat_setWidth, BitVec.toNat_and, BitVec.toNat_ofNat,
    Nat.mod_eq_of_lt hlow, Nat.and_two_pow_sub_one_eq_mod]

theorem low_byte_eq_and (v : Word) : 0#24 ++ v.extractLsb' 0 8 = v &&& 0x000000FF := by
  refine .trans (BitVec.eq_of_toNat_eq ?_) (setWidth_setWidth_eq_and v (n := 8) (by decide))
  rw [toNat_append_add, toNat_extract, BitVec.toNat_setWidth_of_le (by decide), BitVec.toNat_setWidth]
  simp

/-- A plain register shows the bits it keeps of the word written. -/
theorem State.regRead_regWrite_self (s : State) (h : keptBits r = some m) (v : Word) :
    (s.regWrite r v).regRead r = v &&& m := by
  have all : v &&& 0xFFFFFFFF = v := BitVec.and_allOnes
  cases r with
  | ie => cases h; exact EventFlags.toWord_ofWord v
  | timeout => cases h; exact setWidth_setWidth_eq_and v (by decide)
  | feed => cases h; exact setWidth_setWidth_eq_and v (by decide)
  | inv => cases h; exact setWidth_setWidth_eq_and v (by decide)
  | tgt i => cases h; rw [all]; exact s.tgt.get_set_self i v
  | gear i =>
    cases h
    exact (congrArg (BitVec.setWidth 32) (s.gear.get_set_self i _)).trans
      (setWidth_setWidth_eq_and v (by decide))
  | fin0 => cases h; rw [all]; exact word_of_bytes v
  | fin1 => cases h; rw [all]; exact word_of_bytes v
  | fin2 => cases h; exact low_byte_eq_and v
  | _ => cases h

/-- No two registers show the same bit of the state that a write reaches. -/
theorem State.regRead_regWrite_of_ne (s : State) {q : HostReg} (h : q ≠ r) (v : Word) :
    (s.regWrite r v).regRead q = s.regRead q := by
  cases r with
  | tgt i =>
    cases q with
    | tgt j => exact Six.get_set_of_ne _ (fun hj => h (congrArg _ hj)) v
    | _ => rfl
  | gear i =>
    cases q with
    | gear j =>
      exact congrArg (BitVec.setWidth 32)
        (Six.get_set_of_ne _ (fun hj => h (congrArg _ hj)) _)
    | _ => rfl
  | ev | ie | timeout | feed | inv | fin0 | fin1 | fin2 =>
    cases q <;> try contradiction
    all_goals rfl
  | _ => rfl

theorem State.memRead_of_reserved (s : State) (h : regAt a = none) : s.memRead a = 0 := by
  simp only [State.memRead, h]

theorem State.memRead_regWrite_of_ne (s : State) (h : a ≠ regAddr r) (v : Word) :
    (s.regWrite r v).memRead a = s.memRead a := by
  cases hq : regAt a with
  | none => rw [State.memRead_of_reserved _ hq, State.memRead_of_reserved _ hq]
  | some q =>
    obtain rfl := eq_regAddr_of_regAt hq
    rw [State.memRead_regAddr, State.memRead_regAddr]
    exact s.regRead_regWrite_of_ne (fun hqr => h (congrArg regAddr hqr)) v

theorem State.regWrite_of_readOnly (s : State) (h : readOnly r = true) (v : Word) :
    s.regWrite r v = s := by
  cases r with
  | ev | ie | timeout | feed | tgt | gear | inv | fin0 | fin1 | fin2 => cases h
  | _ => rfl

/-- The schedule is no register. -/
theorem State.memRead_withSchedule (s : State) (es : List Event) (a : HostAddr) :
    State.memRead { s with schedule := es } a = s.memRead a := rfl

/-! The statements. -/

/-- Settles O12: the write is `State.regWrite` of the register at the address, whose reads are known, and
each literal address is `regAddr` of its register. -/
theorem plainWriteKeepsTheLowBits : Obligations.PlainWriteKeepsTheLowBits := by
  refine ⟨fun s r m v hb hm => ?reads, fun s v hb => ?fields⟩
  case reads =>
    have hr : r ≠ .cmd := by rintro rfl; cases hm
    refine ⟨s.regWrite r v, State.hostWrite_regAddr hb hr v, ?_,
      fun a ha => s.memRead_regWrite_of_ne ha v, s.regWrite_config r v, s.regWrite_schedule r v,
      s.regWrite_emitted r v, s.regWrite_hostReads r v⟩
    rw [State.memRead_regAddr, s.regRead_regWrite_self hm]
  case fields =>
    have write (r : HostReg) (hr : r ≠ .cmd) := State.hostWrite_regAddr hb hr v
    have flags : flagsNumber (EventFlags.ofWord v) = (v &&& 0x00000F03).toNat := by
      rw [← EventFlags.toWord_toNat, EventFlags.toWord_ofWord]
    simp only [BitVec.ofNat_toNat]
    exact ⟨⟨_, write .ie nofun, flags⟩, write .timeout nofun, write .feed nofun, write .inv nofun,
      ⟨_, _, _, _, write .fin0 nofun, word_toNat_of_bytes v⟩,
      ⟨_, _, _, _, write .fin1 nofun, word_toNat_of_bytes v⟩, write .fin2 nofun,
      fun i => ⟨write (.tgt i) nofun, write (.gear i) nofun⟩⟩

/-- Settles O14: not busy the write clears by `EventFlags.clearBy`, busy it raises `ERR_BUSY`. -/
theorem evIsWriteOneToClear : Obligations.EvIsWriteOneToClear := by
  intro s v
  have read (t : State) : t.memRead 0x008 = t.ev.toWord := t.memRead_regAddr .ev
  cases hb : s.busy with
  | false =>
    have hrest : ¬ (s.fsm = .sending ∨ s.fsm = .awaitingAck) := by rw [← s.busy_iff, hb]; decide
    refine ⟨s.regWrite .ev v, State.hostWrite_regAddr (r := .ev) hb nofun v, rfl, ?_⟩
    rw [if_neg hrest, read, read]
    exact s.ev.toWord_clearBy v
  | true =>
    refine ⟨s.raise .busy, State.hostWrite_of_busy hb (aligned_regAddr .ev) v, rfl, ?_⟩
    rw [if_pos (s.busy_iff.1 hb), read, read]
    exact s.ev.toWord_withErr_busy

/-- Settles O13: a reserved address has no register, and `State.regWrite` ignores a read-only one. -/
theorem readOnlyAndReservedIgnoreWrites : Obligations.ReadOnlyAndReservedIgnoreWrites := by
  refine fun s a v ha => ⟨?_, s.memRead_of_reserved⟩
  rintro hb (hnone | ⟨r, hr, hro⟩)
  · exact State.hostWrite_of_reserved hb ha hnone v
  · obtain rfl := eq_regAddr_of_regAt hr
    have hne : r ≠ .cmd := by rintro rfl; cases hro
    rw [State.hostWrite_regAddr hb hne, s.regWrite_of_readOnly hro]

/-- Settles O15: a host write and a command raise `ERR_BUSY` while busy, and a read does not ask. -/
theorem busyWriteOnlySetsErrBusy : Obligations.BusyWriteOnlySetsErrBusy := by
  intro s hs
  have hb : s.busy = true := s.busy_iff.2 hs
  refine ⟨fun a v ha => State.hostWrite_of_busy hb ha v, fun i hi => exec_of_busy hb ?_,
    fun a ha => s.hostRead_of_aligned ha⟩
  rintro axis speed disp checksum rfl
  simp at hi

/-- Settles O16: the read is the step's first enabled event, and the schedule is no register. -/
theorem readChangesNothing : Obligations.ReadChangesNothing := by
  intro s a rest hs ha
  rw [step_rd hs, State.hostRead_of_aligned _ ha, s.memRead_withSchedule]

/-- Settles O17: both accesses test the address first. -/
theorem unalignedAccessHasNoMeaning : Obligations.UnalignedAccessHasNoMeaning := by
  intro s a v rest ha
  have hu : aligned a = false := by rwa [← Bool.not_eq_true, aligned_iff]
  exact ⟨(step_wr rfl).trans (State.hostWrite_of_unaligned _ hu v),
    (step_rd rfl).trans (State.hostRead_of_unaligned _ hu)⟩

/-- Settles O19: a host event is always enabled, and a busy block refuses the write and the command
alike. -/
theorem stepRunsTheDecodedCommand : Obligations.StepRunsTheDecodedCommand := by
  intro s i w rest hs hd
  exact (step_wr hs).trans (State.hostWrite_command _ hd)

end Sys2Proof.Machine
end

section
/-! What reaches the transmit channel (20_memory.md R60, 43_transmit.md R195). -/

namespace Sys2Proof.Machine

/-- Every effect but that of `TXACC` leaves the emitted frames, and that one appends one
(43_transmit.md R195). -/
theorem Effect.emitted {s t : State} {e : Event} (h : Effect s e t) :
    t.emitted = s.emitted ∨ (e = .txacc ∧ s.fsm = .sending ∧ ∃ i, s.txIdx.val = i.val ∧
      t.emitted = s.emitted ++ [marshal (s.pkt.get i)]) := by
  cases h with
  | txacc i hs hi => exact .inr ⟨rfl, hs, i, hi, s.transmit_emitted i _⟩
  | stored r v => exact .inl (s.regWrite_emitted r v)
  | rxFirst => exact .inl (State.resolve_emitted _)
  | rxSecond => exact .inl (State.resolve_emitted _)
  | _ => exact .inl rfl

/-- Settles O48: a step does nothing or has one of the effects. -/
theorem onlyTxaccEmits : Obligations.OnlyTxaccEmits := by
  intro s t h
  rcases step_effect h with ⟨-, rfl⟩ | ⟨e, rest, hnext, -, -, heffect⟩
  · exact .inl rfl
  · rcases heffect.emitted with hsame | ⟨rfl, hs, hframe⟩
    · exact .inl hsame
    · exact .inr ⟨hnext, hs, hframe⟩

end Sys2Proof.Machine
end

section
/-! The codes of instructions (30_encoding.md R90 to R95): `decode` and `encode` are inverse, and what
follows for the words of the opcode map and for the nine bytes of a Frame. -/

namespace Sys2Proof

open Machine

/-! Decoding undoes encoding, and encoding undoes decoding. -/

/-- The rows of the opcode map whose `A` field is 0 (30_encoding.md R91, R92). -/
def operandlessRows : List (Byte × Instr) :=
  [(0x00, .nop), (0x02, .encp), (0x04, .sync), (0x05, .send), (0x06, .axrst), (0x07, .pclr)]

theorem decodeCommand_commandWord_operandless {op : Byte} {i : Instr}
    (h : (op, i) ∈ operandlessRows) : decodeCommand (commandWord 0 op) = .ok i := by
  have table : ∀ row ∈ operandlessRows, decodeCommand (commandWord 0 row.1) = .ok row.2 := by decide
  exact table (op, i) h

theorem decodeCommand_commandWord_encf (a : Byte) :
    decodeCommand (commandWord a 0x01) = .ok (.encf a) := by
  simp [decodeCommand]

theorem decodeCommand_commandWord_ldf (a : Byte) :
    decodeCommand (commandWord a 0x03) = .ok (.ldf a) := by
  simp [decodeCommand]

/-- Settles O4: the fields of a code are the operands it was built from, command by command and for the
Frame. -/
theorem decodeOfEncode : Obligations.DecodeOfEncode := by
  intro i
  cases i with
  | nop | encp | sync | send | axrst | pclr =>
    exact decodeCommand_commandWord_operandless (by decide)
  | encf a => exact decodeCommand_commandWord_encf a
  | ldf a => exact decodeCommand_commandWord_ldf a
  | frame axis speed disp checksum =>
    obtain ⟨haxis, hop, hspeed, hsub, hdisp, hsum⟩ :=
      frame_bits_fields axis 0xF5#8 speed 0x02#8 disp checksum
    simp only [encode, decode, decodeFrameBits]
    rw [haxis, hop, hspeed, hsub, hdisp, hsum, if_neg (by decide), if_neg (by decide)]

/-- The converse of `frame_bits_fields`: neighbouring fields join up to the 72 bits. -/
theorem frame_bits_of_fields (w : BitVec 72) :
    ((((w.extractLsb' 64 8 ++ w.extractLsb' 56 8) ++ w.extractLsb' 40 16) ++ w.extractLsb' 32 8)
      ++ w.extractLsb' 8 24) ++ w.extractLsb' 0 8 = w := by
  have join0 : w.extractLsb' 64 8 ++ w.extractLsb' 56 8 = w.extractLsb' 56 16 :=
    extract_append_extract w 56 8 8
  have join1 : w.extractLsb' 56 16 ++ w.extractLsb' 40 16 = w.extractLsb' 40 32 :=
    extract_append_extract w 40 16 16
  have join2 : w.extractLsb' 40 32 ++ w.extractLsb' 32 8 = w.extractLsb' 32 40 :=
    extract_append_extract w 32 32 8
  have join3 : w.extractLsb' 32 40 ++ w.extractLsb' 8 24 = w.extractLsb' 8 64 :=
    extract_append_extract w 8 40 24
  rw [join0, join1, join2, join3]
  exact append_extract (a := 64) (b := 8) w

/-- Settles O5: the decoder accepts only a code whose fixed fields are the encoder's, and a code is its
fields. -/
theorem encodeOfDecode : Obligations.EncodeOfDecode := by
  intro c i h
  cases c with
  | command w =>
    obtain ⟨hz, hrow⟩ := decodeCommand_cases h
    have hw := congrArg Code.command (commandWord_of_fields w hz)
    rcases hrow with ⟨ho, ha, rfl⟩ | ⟨ho, rfl⟩ | ⟨ho, ha, rfl⟩ | ⟨ho, rfl⟩ | ⟨ho, ha, rfl⟩
      | ⟨ho, ha, rfl⟩ | ⟨ho, ha, rfl⟩ | ⟨ho, ha, rfl⟩
    case inr.inl | inr.inr.inr.inl => rw [← hw, ho]; rfl
    all_goals rw [← hw, ho, ha]; rfl
  | frame w =>
    obtain ⟨hop, hsub, rfl⟩ := decodeFrameBits_cases h
    rw [encode, ← hop, ← hsub, frame_bits_of_fields]

/-- A code decodes to an instruction exactly when it is the instruction's code. -/
theorem decode_eq_ok_iff {c : Code} {i : Instr} : decode c = .ok i ↔ encode i = c :=
  ⟨encodeOfDecode c i, fun h => h ▸ decodeOfEncode i⟩

theorem decodeCommand_eq_ok_iff {w : Word} {i : Instr} :
    decodeCommand w = .ok i ↔ encode i = .command w :=
  decode_eq_ok_iff (c := .command w)

/-- Settles O1: each sample word is the code of its instruction, and each reserved word fails the check
named. -/
theorem sampleWordsDecode : Obligations.SampleWordsDecode := by
  have accepted {w : Word} {i : Instr} : encode i = .command w → decodeCommand w = .ok i :=
    decodeCommand_eq_ok_iff.2
  exact ⟨accepted rfl, accepted rfl, accepted rfl, accepted rfl, accepted rfl, accepted rfl,
    accepted rfl, accepted rfl, decode_eq_ok_iff.2 rfl, by decide, by decide, by decide⟩

/-! Command words by mask and match, and by number. -/

theorem zeroField_toNat (w : Word) : (zeroField w).toNat = w.toNat / 65536 := by
  have := w.isLt
  rw [zeroField, toNat_extract]
  omega

theorem aField_toNat (w : Word) : (aField w).toNat = w.toNat / 256 % 256 := toNat_extract w 8 8

theorem opField_toNat (w : Word) : (opField w).toNat = w.toNat % 256 := by
  rw [opField, toNat_extract]
  omega

/-- The mask of a row with an operand clears the `A` field (30_encoding.md R91). -/
theorem and_operandMask (w : Word) : w &&& 0xFFFF00FF = (zeroField w ++ 0#8) ++ opField w := by
  have hmask : (0xFFFF00FF : Word) = (BitVec.allOnes 16 ++ 0#8) ++ BitVec.allOnes 8 := by decide
  conv_lhs => rw [← word_of_fields w, hmask, BitVec.and_append, BitVec.and_append]
  simp only [BitVec.and_allOnes, BitVec.and_zero]

/-- A row without an operand masks nothing. -/
theorem and_fullMask (w : Word) : w &&& 0xFFFFFFFF = w := BitVec.and_allOnes

/-- A row with an operand matches by `ZERO` and `OP`. -/
theorem and_operandMask_eq_iff (w : Word) (op : Byte) :
    w &&& 0xFFFF00FF = commandWord 0 op ↔ zeroField w = 0 ∧ opField w = op := by
  rw [and_operandMask]
  have := (zeroField w).isLt
  have := (opField w).isLt
  have := op.isLt
  rw [← BitVec.toNat_inj, ← BitVec.toNat_inj, ← BitVec.toNat_inj]
  simp only [commandWord, toNat_append_add, BitVec.reduceToNat]
  omega

theorem commandWord_eq_iff {a op : Byte} {w : Word} :
    commandWord a op = w ↔ zeroField w = 0 ∧ aField w = a ∧ opField w = op := by
  constructor
  · rintro rfl
    exact ⟨zeroField_commandWord a op, aField_commandWord a op, opField_commandWord a op⟩
  · rintro ⟨hz, rfl, rfl⟩
    exact commandWord_of_fields w hz

/-- A word is the code of a command with an operand exactly when it matches the row. -/
theorem commandWord_eq_iff_matches (a op : Byte) (w : Word) :
    commandWord a op = w ↔
      w &&& 0xFFFF00FF = commandWord 0 op ∧ a.toNat = w.toNat / 256 % 256 := by
  rw [commandWord_eq_iff, and_operandMask_eq_iff, ← aField_toNat, BitVec.toNat_inj, eq_comm (a := a)]
  tauto

/-- Settles O2: a word decodes to a command exactly when it is the command's code, and that is read off
under the row's mask. -/
theorem commandDecodeFollowsMaskAndMatch : Obligations.CommandDecodeFollowsMaskAndMatch := by
  intro w
  have operandless {i : Instr} {m : Word} (h : encode i = .command m) :
      decodeCommand w = .ok i ↔ w &&& 0xFFFFFFFF = m := by
    rw [decodeCommand_eq_ok_iff, h, Code.command.injEq, and_fullMask, eq_comm]
  have operand {a op : Byte} {i : Instr} (h : encode i = .command (commandWord a op)) :
      decodeCommand w = .ok i ↔
        w &&& 0xFFFF00FF = commandWord 0 op ∧ a.toNat = w.toNat / 256 % 256 := by
    rw [decodeCommand_eq_ok_iff, h, Code.command.injEq, commandWord_eq_iff_matches]
  exact ⟨operandless rfl, fun a => operand (op := 0x01) rfl, operandless rfl,
    fun a => operand (op := 0x03) rfl, operandless rfl, operandless rfl, operandless rfl,
    operandless rfl⟩

/-! Reserved words (30_encoding.md R92). -/

/-- The words the decoder accepts, by their fields. -/
theorem exists_decodeCommand_eq_ok_iff (w : Word) :
    (∃ i, decodeCommand w = .ok i) ↔ zeroField w = 0 ∧
      (opField w = 0x01 ∨ opField w = 0x03 ∨
        (opField w ∈ operandlessRows.map Prod.fst ∧ aField w = 0)) := by
  constructor
  · rintro ⟨i, h⟩
    obtain ⟨hz, hrow⟩ := decodeCommand_cases h
    refine ⟨hz, ?_⟩
    rcases hrow with ⟨ho, ha, -⟩ | ⟨ho, -⟩ | ⟨ho, ha, -⟩ | ⟨ho, -⟩ | ⟨ho, ha, -⟩
      | ⟨ho, ha, -⟩ | ⟨ho, ha, -⟩ | ⟨ho, ha, -⟩ <;> simp [operandlessRows, *]
  · rintro ⟨hz, hrow⟩
    have hw := commandWord_of_fields w hz
    rcases hrow with ho | ho | ⟨ho, ha⟩
    · exact ⟨.encf (aField w), by rw [← decodeCommand_commandWord_encf, ← ho, hw]⟩
    · exact ⟨.ldf (aField w), by rw [← decodeCommand_commandWord_ldf, ← ho, hw]⟩
    · obtain ⟨⟨op, i⟩, hmem, hop⟩ := List.mem_map.1 ho
      refine ⟨i, ?_⟩
      rw [← decodeCommand_commandWord_operandless hmem, show op = opField w from hop, ← ha, hw]

theorem exists_decodeCommand_eq_error_iff (w : Word) :
    (∃ e, decodeCommand w = .error e) ↔ ¬ ∃ i, decodeCommand w = .ok i := by
  cases decodeCommand w <;> simp

theorem Machine.State.command_of_reserved (s : State) {w : Word} {e : DecodeError}
    (hd : decodeCommand w = .error e) : s.command w = .next (s.raise .op) := by
  simp only [State.command, hd]

/-- Settles O3: the reserved words are those the decoder does not accept, their fields read as numbers,
and a write of one to `CMD` raises `ERR_OP`. -/
theorem reservedWordsSetOnlyErrOp : Obligations.ReservedWordsSetOnlyErrOp := by
  refine fun w => ⟨?reserved, fun s e hb hd => ?refused⟩
  case reserved =>
    rw [exists_decodeCommand_eq_error_iff, exists_decodeCommand_eq_ok_iff]
    simp only [operandlessRows, List.map_cons, List.map_nil, List.mem_cons, List.not_mem_nil, or_false,
      ← BitVec.toNat_inj, zeroField_toNat, aField_toNat, opField_toNat, BitVec.reduceToNat]
    omega
  case refused => exact (State.hostWrite_cmd hb w).trans (s.command_of_reserved hd)

/-! The nine bytes of a Frame (30_encoding.md R95). -/

theorem Frame.toBits_toNat (f : Frame) :
    f.toBits.toNat = 2 ^ 64 * f.b0.toNat + 2 ^ 56 * f.b1.toNat + 2 ^ 48 * f.b2.toNat
      + 2 ^ 40 * f.b3.toNat + 2 ^ 32 * f.b4.toNat + 2 ^ 24 * f.b5.toNat + 2 ^ 16 * f.b6.toNat
      + 2 ^ 8 * f.b7.toNat + f.b8.toNat := by
  simp only [Frame.toBits, toNat_append_add]
  omega

theorem Frame.ofBits_toBits (f : Frame) : Frame.ofBits f.toBits = f := by
  obtain ⟨b0, b1, b2, b3, b4, b5, b6, b7, b8⟩ := f
  have := b0.isLt; have := b1.isLt; have := b2.isLt
  have := b3.isLt; have := b4.isLt; have := b5.isLt
  have := b6.isLt; have := b7.isLt; have := b8.isLt
  simp only [Frame.ofBits, Frame.mk.injEq, ← BitVec.toNat_inj, toNat_extract, Frame.toBits_toNat,
    Nat.pow_zero, Nat.div_one]
  omega

theorem Frame.toBits_inj {f g : Frame} : f.toBits = g.toBits ↔ f = g :=
  ⟨fun h => by rw [← f.ofBits_toBits, h, g.ofBits_toBits], congrArg _⟩

/-- The code of a FRAME is the pattern of the nine bytes it stands for. -/
theorem encode_frame (axis : Byte) (speed : BitVec 16) (disp : BitVec 24) (checksum : Byte) :
    encode (.frame axis speed disp checksum) =
      .frame (frameBytes axis speed disp checksum).toBits := by
  refine congrArg Code.frame (BitVec.eq_of_toNat_eq ?_)
  have := speed.isLt
  have := disp.isLt
  simp only [Frame.toBits_toNat, frameBytes, toNat_append_add, toNat_extract, Nat.pow_zero, Nat.div_one,
    BitVec.reduceToNat]
  omega

/-- Settles O6: a FRAME's code is the pattern of its nine bytes, and a pattern is no other bytes'. -/
theorem frameBitsDecodeToTheirBytes : Obligations.FrameBitsDecodeToTheirBytes := by
  refine fun f => ⟨f.ofBits_toBits, fun axis speed disp checksum => ?_⟩
  rw [decode_eq_ok_iff, encode_frame, Code.frame.injEq, Frame.toBits_inj, eq_comm]

end Sys2Proof
end

section
/-! The fields of a Frame as numbers (30_encoding.md R97, R98, R104): its register words, its
displacement and its checksum. -/

namespace Sys2Proof.Machine

/-! Register words. -/

theorem frameWord0_toNat (f : Frame) :
    (frameWord0 f).toNat =
      2 ^ 24 * f.b0.toNat + 2 ^ 16 * f.b1.toNat + 2 ^ 8 * f.b2.toNat + f.b3.toNat := by
  simp only [frameWord0, toNat_append_add]
  omega

theorem frameWord1_toNat (f : Frame) :
    (frameWord1 f).toNat =
      2 ^ 24 * f.b4.toNat + 2 ^ 16 * f.b5.toNat + 2 ^ 8 * f.b6.toNat + f.b7.toNat := by
  simp only [frameWord1, toNat_append_add]
  omega

theorem frameWord2_toNat (f : Frame) : (frameWord2 f).toNat = f.b8.toNat := by
  rw [frameWord2, toNat_append_add]
  simp

/-- Settles O10: the registers of `FIN` and of a slot hold the three words of the Frame. -/
theorem framesReadAsThreeWords : Obligations.FramesReadAsThreeWords := by
  intro s
  have read (r : HostReg) : (s.memRead (regAddr r)).toNat = (s.regRead r).toNat := by
    rw [s.memRead_regAddr]
  refine ⟨?fin, fun i => ?slot⟩
  case fin =>
    rintro _ rfl
    exact ⟨(read .fin0).trans (frameWord0_toNat _), (read .fin1).trans (frameWord1_toNat _),
      (read .fin2).trans (frameWord2_toNat _)⟩
  case slot =>
    rintro _ rfl
    exact ⟨(read (.pktw0 i)).trans (frameWord0_toNat _),
      (read (.pktw1 i)).trans (frameWord1_toNat _), (read (.pktw2 i)).trans (frameWord2_toNat _)⟩

/-! The displacement field. -/

theorem fieldNumber_eq_toNat (f : Frame) : fieldNumber f = (displacementOf f).toNat := by
  simp only [fieldNumber, displacementOf, toNat_append_add]
  omega

theorem signedField_eq_toInt (f : Frame) : signedField f = (displacementOf f).toInt := by
  rw [signedField, fieldNumber_eq_toNat, BitVec.toInt_eq_toNat_cond]
  split <;> split <;> omega

/-- Packing is reduction modulo `2^24` (30_encoding.md R97). -/
theorem pack24_toNat (d : Int) : ((pack24 d).toNat : Int) = d % 2 ^ 24 := by
  rw [pack24, BitVec.toNat_ofInt]
  omega

theorem pack24_toInt (d : Int) : (pack24 d).toInt = d.bmod (2 ^ 24) := BitVec.toInt_ofInt d

/-- Unpacking as signed undoes packing in the range of 24 bits (30_encoding.md R97). -/
theorem pack24_toInt_of_inRange {d : Int} (hlo : -2 ^ 23 ≤ d) (hhi : d ≤ 2 ^ 23 - 1) :
    (pack24 d).toInt = d := by
  rw [pack24_toInt]
  exact Int.bmod_eq_of_le (by omega) (by omega)

/-- Settles O30: the field of a built Frame is the packed displacement, read unsigned or signed, and each
of its bytes is a digit of the field. -/
theorem signedFieldRoundTrip : Obligations.SignedFieldRoundTrip := by
  refine ⟨?_, by decide⟩
  rintro d axis feed f rfl
  generalize hf : buildFrame axis feed (pack24 d) = f
  have hfield : displacementOf f = pack24 d := hf ▸ displacementOf_buildFrame axis feed (pack24 d)
  have := f.b6.isLt
  have := f.b7.isLt
  refine ⟨?_, ?_, ?_, ?_, ?_, fun hlo hhi => ?_⟩
  · rw [fieldNumber_eq_toNat, hfield, pack24_toNat]
  · rw [fieldNumber]; omega
  · rw [fieldNumber]; omega
  · rw [fieldNumber]; omega
  · rw [signedField_eq_toInt, hfield, pack24_toInt]
    exact Int.emod_eq_emod_iff_emod_sub_eq_zero.1 Int.bmod_emod
  · rw [signedField_eq_toInt, hfield, pack24_toInt_of_inRange hlo hhi]

/-! The checksum. -/

theorem bytesum_toNat (f : Frame) : (bytesum f).toNat = byteTotal f % 256 := by
  simp only [bytesum, byteTotal, BitVec.toNat_add]
  omega

theorem byteTotal_le (f : Frame) : byteTotal f ≤ 2040 := by
  have := f.b0.isLt; have := f.b1.isLt; have := f.b2.isLt; have := f.b3.isLt
  have := f.b4.isLt; have := f.b5.isLt; have := f.b6.isLt; have := f.b7.isLt
  rw [byteTotal]
  omega

/-- The checksum is no part of what it sums. -/
theorem buildFrame_b8 (axis : Byte) (feed : BitVec 16) (d : BitVec 24) :
    (buildFrame axis feed d).b8 = bytesum (buildFrame axis feed d) := rfl

/-- Settles O31: the bytes add up modulo 256, and each is at most 255. -/
theorem checksumIsTheByteSum : Obligations.ChecksumIsTheByteSum := by
  rintro axis feed d f g rfl
  refine ⟨?_, bytesum_toNat g, byteTotal_le g⟩
  rw [buildFrame_b8, bytesum_toNat]

end Sys2Proof.Machine
end

section
/-! Operands of commands and Frames (30_encoding.md R93, R95): what a command with an operand answers,
and what a FRAME hands to the transmit channel. -/

namespace Sys2Proof.Machine

variable {s : State} {a : Byte} {i : Index}

/-! `ENCF`, `LDF` and `ENCP`. -/

theorem exec_encf_of_operand (hb : s.busy = false) (ha : a.toNat = i.val + 1) :
    exec (.encf a) s = .next (s.encodeAxis i) := by
  simp only [exec, execEncf, State.unlessBusy_of_not_busy _ hb, (axisOperand_eq_some a i).2 ha]

theorem exec_encf_of_outOfRange (hb : s.busy = false) (ha : a.toNat = 0 ∨ 7 ≤ a.toNat) :
    exec (.encf a) s = .next (s.raise .arg) := by
  simp only [exec, execEncf, State.unlessBusy_of_not_busy _ hb, (axisOperand_eq_none a).2 ha]

theorem exec_ldf_of_operand (hb : s.busy = false) (ha : a.toNat = i.val) :
    exec (.ldf a) s = .next (s.fillSlot i s.fin) := by
  simp only [exec, execLdf, State.unlessBusy_of_not_busy _ hb, (slotOperand_eq_some a i).2 ha]

theorem exec_ldf_of_outOfRange (hb : s.busy = false) (ha : 6 ≤ a.toNat) :
    exec (.ldf a) s = .next (s.raise .arg) := by
  simp only [exec, execLdf, State.unlessBusy_of_not_busy _ hb, (slotOperand_eq_none a).2 ha]

theorem exec_encp_of_not_busy (hb : s.busy = false) : exec .encp s = .next s.encodeAll := by
  simp only [exec, execEncp, State.unlessBusy_of_not_busy _ hb]

/-- Settles O23: out of range the operand raises `ERR_ARG`, in range it names an axis or a slot and no
flag is written. -/
theorem operandRangesAreChecked : Obligations.OperandRangesAreChecked := by
  refine fun s a hb => ⟨exec_encf_of_outOfRange hb, exec_ldf_of_outOfRange hb, fun h1 h6 => ?_,
    fun h5 => ?_⟩
  · exact ⟨_, exec_encf_of_operand (i := ⟨a.toNat - 1, by omega⟩) hb (by dsimp only; omega), rfl⟩
  · exact ⟨_, exec_ldf_of_operand (i := ⟨a.toNat, by omega⟩) hb rfl, rfl⟩

/-! `FRAME`. -/

/-- A transmission field by field: after slot 5 the wait begins (43_transmit.md R195). -/
theorem State.transmit_eq (s : State) (i : Index) (f : Frame) :
    s.transmit i f = { s with
      emitted := s.emitted ++ [marshal f]
      txIdx := i.succ
      fsm := if i = 5 then .awaitingAck else s.fsm
      timer := if i = 5 then 0 else s.timer } := by
  by_cases h : i = 5
  · subst h; rfl
  · have h' : i.val ≠ 5 := fun hv => h (Fin.ext hv)
    simp [State.transmit, h, h']

theorem exec_frame_of_presented (h : s.presentedSlot = some i) (axis : Byte) (speed : BitVec 16)
    (disp : BitVec 24) (checksum : Byte) :
    exec (.frame axis speed disp checksum) s =
      .next (s.transmit i (frameBytes axis speed disp checksum)) := by
  simp only [exec, execFrame, h]

/-- The bus frame's id is the number of the axis byte (30_encoding.md R100). -/
theorem marshal_eq (f : Frame) :
    marshal f = { id := BitVec.ofNat 11 f.b0.toNat, extended := false, dlc := 8
                  data := [f.b1, f.b2, f.b3, f.b4, f.b5, f.b6, f.b7, f.b8] } := by
  rw [BitVec.ofNat_toNat]
  rfl

/-- Settles O43: the slot is presented, so FRAME transmits the nine bytes it stands for, whose speed and
displacement bytes add up to the operands. -/
theorem frameIsTransmittedWhileSending : Obligations.FrameIsTransmittedWhileSending := by
  intro s k axis speed disp checksum hs hk
  have := speed.isLt
  have := disp.isLt
  refine ⟨speed.extractLsb' 8 8, speed.extractLsb' 0 8, disp.extractLsb' 16 8, disp.extractLsb' 8 8,
    disp.extractLsb' 0 8, ?speed, ?displacement, ?transmitted⟩
  case speed => simp only [toNat_extract]; omega
  case displacement => simp only [toNat_extract]; omega
  case transmitted =>
    rw [exec_frame_of_presented ((s.presentedSlot_eq_some k).2 ⟨hs, hk⟩), State.transmit_eq, hs,
      marshal_eq]
    rfl

end Sys2Proof.Machine
end

section
/-! What encoding an axis makes (40_position_encode.md R120 to R126), against the spec's own arithmetic
over integers. -/

namespace Sys2Proof.Machine

/-- Truncation toward zero, with its two cases written out (40_position_encode.md R121). -/
theorem truncz_eq (n : Int) : truncz n = if 0 ≤ n then n / 2 ^ 24 else -((-n) / 2 ^ 24) := by
  rw [truncz]
  split
  case isTrue h => exact Int.tdiv_eq_ediv_of_nonneg h
  case isFalse h =>
    rw [← Int.tdiv_eq_ediv_of_nonneg (by omega), Int.neg_tdiv, neg_neg]

theorem State.positionOf_eq_spec (s : State) (i : Index) : s.positionOf i = specPosition s i := rfl

theorem State.displacementOf_eq_spec (s : State) (i : Index) :
    s.displacementOf i = specDisplacement s i := by
  simp only [State.displacementOf, displacement, specDisplacement, truncz_eq, State.inverted,
    s.positionOf_eq_spec, Bool.and_eq_true, and_comm]

/-- A position never leaves the range of 48 bits (40_position_encode.md R123). -/
theorem position_natAbs_le (tgt : Word) (gear : BitVec 16) :
    (position tgt gear).natAbs ≤ 2 ^ 31 * (2 ^ 16 - 1) := by
  have htgt : tgt.toInt.natAbs ≤ 2 ^ 31 := by
    have := tgt.isLt
    rw [BitVec.toInt_eq_toNat_cond]
    split <;> omega
  have hgear : gear.toNat ≤ 2 ^ 16 - 1 := Nat.le_sub_one_of_lt gear.isLt
  rw [position, Int.natAbs_mul, Int.natAbs_natCast]
  exact Nat.mul_le_mul htgt hgear

theorem position_toInt (tgt : Word) (gear : BitVec 16) :
    (BitVec.ofInt 48 (position tgt gear)).toInt = position tgt gear := by
  have := position_natAbs_le tgt gear
  rw [BitVec.toInt_ofInt]
  exact Int.bmod_eq_of_le (by omega) (by omega)

theorem speedNumber_eq_toNat (f : Frame) : speedNumber f = (speedOf f).toNat := by
  rw [speedNumber, speedOf, toNat_append_add]
  omega

theorem axisId_toNat (i : Index) : (axisId i).toNat = i.val + 1 := by
  rw [axisId, BitVec.toNat_ofNat]
  omega

/-- The Frame and the position an encode stores are those of the spec's arithmetic. -/
theorem encodesAxis_encodedFrame (s : State) (i : Index) :
    encodesAxis s i (s.encodedFrame i) (BitVec.ofInt 48 (s.positionOf i)) := by
  refine ⟨position_toInt _ _, axisId_toNat i, rfl, ?speed, rfl, ?field, bytesum_toNat _⟩
  case speed => rw [speedNumber_eq_toNat, State.encodedFrame, speedOf_buildFrame]
  case field =>
    rw [fieldNumber_eq_toNat, State.encodedFrame, displacementOf_buildFrame, pack24_toNat,
      s.displacementOf_eq_spec]

end Sys2Proof.Machine
end

section
/-! The script's pseudo-operations (30_encoding.md R105, R106): a run over a list of register writes, and
the runs of `LOADPKT` and `MOVE` assembled from it. -/

/-- Every element replaced, in index order. -/
theorem Sys2Proof.Six.set_each {α : Type} (v : Six α) (x0 x1 x2 x3 x4 x5 : α) :
    (((((v.set 0 x0).set 1 x1).set 2 x2).set 3 x3).set 4 x4).set 5 x5 = ⟨x0, x1, x2, x3, x4, x5⟩ := rfl

namespace Sys2Proof.Machine

variable {s : State} {rest : List Event}

/-! The coming steps of a script, apart from the state they are taken in. -/

/-- The state with these coming steps. -/
def State.withSchedule (s : State) (es : List Event) : State := { s with schedule := es }

theorem State.eq_withSchedule {es : List Event} (h : s.schedule = es) : s = s.withSchedule es := by
  rw [← h]
  rfl

theorem State.regWrite_busy (s : State) (r : HostReg) (v : Word) :
    (s.regWrite r v).busy = s.busy := by simp [State.busy]

theorem State.regWrite_withSchedule (s : State) (es : List Event) (r : HostReg) (v : Word) :
    (s.withSchedule es).regWrite r v = (s.regWrite r v).withSchedule es := by
  cases r <;> rfl

/-! Script lines. -/

theorem step_writeReg (hb : s.busy = false) {r : HostReg} (hr : r ≠ .cmd) (v : Word) :
    step (s.withSchedule (writeReg r v :: rest)) = .next ((s.regWrite r v).withSchedule rest) := by
  rw [← s.regWrite_withSchedule]
  exact (step_wr rfl).trans (State.hostWrite_regAddr (s := s.withSchedule rest) hb hr v)

/-- The script line of a command runs the command. -/
theorem step_commandEvent {i : Instr} {w : Word} (hi : encode i = .command w) :
    step (s.withSchedule (commandEvent i :: rest)) = exec i (s.withSchedule rest) := by
  have hline : commandEvent i = .wr 0x000 w := by simp only [commandEvent, hi]; rfl
  rw [hline]
  exact stepRunsTheDecodedCommand _ i w rest rfl (decodeCommand_eq_ok_iff.2 hi)

/-- The script lines `WR <REG>, <value>` of a list of writes. -/
def writeRegs (ws : List (HostReg × Word)) : List Event := ws.map fun w => writeReg w.1 w.2

/-- The state after a list of accepted register writes. -/
def State.regWrites (s : State) (ws : List (HostReg × Word)) : State :=
  ws.foldl (fun t w => t.regWrite w.1 w.2) s

/-- A run over register writes takes them one by one. -/
theorem run_writeRegs (n : Nat) {ws : List (HostReg × Word)} (hb : s.busy = false)
    (hr : ∀ w ∈ ws, w.1 ≠ .cmd) :
    Host.Core.run Sys2Proof.core (n + ws.length) (s.withSchedule (writeRegs ws ++ rest)) =
      Host.Core.run Sys2Proof.core n ((s.regWrites ws).withSchedule rest) := by
  induction ws generalizing s with
  | nil => rfl
  | cons w ws ih =>
    obtain ⟨hw, hws⟩ := List.forall_mem_cons.1 hr
    exact (run_of_step _ (step_writeReg hb hw w.2)).trans
      (ih ((s.regWrite_busy w.1 w.2).trans hb) hws)

/-! `LOADPKT`. -/

/-- The state with a Frame staged in `FIN` and loaded into a slot. -/
def State.stageAndLoad (s : State) (i : Index) (f : Frame) : State :=
  State.fillSlot { s with fin := f } i f

/-- The three writes of `WRFRAME` leave the Frame in `FIN`. -/
theorem State.regWrites_wrFrame (s : State) (f : Frame) :
    s.regWrites [(.fin0, frameWord0 f), (.fin1, frameWord1 f), (.fin2, frameWord2 f)] =
      { s with fin := f } := by
  simp [State.regWrites, State.regWrite]

/-- One line of `LOADPKT` is four steps. -/
theorem run_loadSlot (n : Nat) (hb : s.busy = false) (i : Index) (f : Frame) :
    Host.Core.run Sys2Proof.core (n + 4) (s.withSchedule (loadSlot i f ++ rest)) =
      Host.Core.run Sys2Proof.core n ((s.stageAndLoad i f).withSchedule rest) := by
  have hi : (BitVec.ofNat 8 i.val).toNat = i.val := by rw [BitVec.toNat_ofNat]; omega
  have staged := run_writeRegs (n + 1) hb
    (ws := [(.fin0, frameWord0 f), (.fin1, frameWord1 f), (.fin2, frameWord2 f)])
    (rest := commandEvent (.ldf (BitVec.ofNat 8 i.val)) :: rest) (by simp)
  rw [s.regWrites_wrFrame f] at staged
  exact staged.trans
    (run_of_step n ((step_commandEvent rfl).trans (exec_ldf_of_operand (i := i) hb hi)))

/-- The state after a list of lines of `LOADPKT`. -/
def State.stageAndLoadAll (s : State) (fs : List (Index × Frame)) : State :=
  fs.foldl (fun t x => t.stageAndLoad x.1 x.2) s

/-- A run over lines of `LOADPKT` takes them one by one. -/
theorem run_loadSlots (fs : List (Index × Frame)) (hb : s.busy = false) :
    Host.Core.run Sys2Proof.core (4 * fs.length)
        (s.withSchedule (fs.flatMap (fun x => loadSlot x.1 x.2) ++ rest)) =
      .next ((s.stageAndLoadAll fs).withSchedule rest) := by
  induction fs generalizing s with
  | nil => rfl
  | cons x fs ih =>
    rw [List.flatMap_cons, List.append_assoc]
    exact (run_loadSlot _ hb x.1 x.2).trans (ih hb)

/-- The Frames of a packet with their slots, in slot order. -/
def slotFrames (p : Six Frame) : List (Index × Frame) :=
  [(0, p.e0), (1, p.e1), (2, p.e2), (3, p.e3), (4, p.e4), (5, p.e5)]

theorem loadPkt_eq (p : Six Frame) :
    loadPkt p = (slotFrames p).flatMap fun x => loadSlot x.1 x.2 := by
  simp [loadPkt, slotFrames]

theorem State.stageAndLoadAll_slotFrames (s : State) (p : Six Frame) :
    s.stageAndLoadAll (slotFrames p) =
      { s with pkt := p, pvalid := Six.fill true, fin := p.e5 } := by
  simp only [State.stageAndLoadAll, slotFrames, List.foldl, State.stageAndLoad, State.fillSlot,
    Six.set_each]
  rfl

/-- The 24 steps of `LOADPKT`. -/
theorem run_loadPkt (hb : s.busy = false) {p : Six Frame} (hs : s.schedule = loadPkt p ++ rest) :
    Host.Core.run Sys2Proof.core 24 s = .next
      (State.withSchedule { s with pkt := p, pvalid := Six.fill true, fin := p.e5 } rest) := by
  have loaded := run_loadSlots (rest := rest) (slotFrames p) hb
  rw [← loadPkt_eq, ← State.eq_withSchedule hs, s.stageAndLoadAll_slotFrames p] at loaded
  exact loaded

/-! `MOVE`. -/

/-- The seven register writes of `MOVE`. -/
def moveWrites (f : BitVec 16) (t : Six Word) : List (HostReg × Word) :=
  [(.feed, f.setWidth 32), (.tgt 0, t.e0), (.tgt 1, t.e1), (.tgt 2, t.e2), (.tgt 3, t.e3),
    (.tgt 4, t.e4), (.tgt 5, t.e5)]

theorem move_append_eq (f : BitVec 16) (t : Six Word) (rest : List Event) :
    move f t ++ rest = writeRegs (moveWrites f t) ++ commandEvent .encp :: rest := rfl

theorem State.regWrites_moveWrites (s : State) (f : BitVec 16) (t : Six Word) :
    s.regWrites (moveWrites f t) = { s with feed := f, tgt := t } := by
  have hf : (f.setWidth 32).setWidth 16 = f := by simp
  simp only [State.regWrites, moveWrites, List.foldl, State.regWrite, hf, Six.set_each]

theorem moveWrites_ne_cmd (f : BitVec 16) (t : Six Word) : ∀ w ∈ moveWrites f t, w.1 ≠ .cmd := by
  simp [moveWrites]

/-- The eight steps of `MOVE`. -/
theorem run_move (hb : s.busy = false) {f : BitVec 16} {t : Six Word}
    (hs : s.schedule = move f t ++ rest) :
    Host.Core.run Sys2Proof.core 8 s =
      .next ((State.encodeAll { s with feed := f, tgt := t }).withSchedule rest) := by
  have written := run_writeRegs 1 (rest := commandEvent .encp :: rest) hb (moveWrites_ne_cmd f t)
  rw [← move_append_eq, ← State.eq_withSchedule hs, s.regWrites_moveWrites f t] at written
  exact written.trans (run_of_step 0 ((step_commandEvent rfl).trans (exec_encp_of_not_busy hb)))

/-- Settles O33: the two scripts are register writes and commands, and what `MOVE` encodes is the spec's
arithmetic. -/
theorem loadpktFillsTheBuffer : Obligations.LoadpktFillsTheBuffer := by
  refine ⟨fun s p rest hb hs => run_loadPkt hb hs, fun f t => ?lines, fun s f t rest hb hs => ?move⟩
  case lines =>
    rw [BitVec.ofNat_toNat]
    rfl
  case move =>
    refine ⟨_, _, run_move hb hs, fun i => ?_⟩
    rw [State.encodeAll_pkt, State.encodeAll_last, Six.get_ofFn, Six.get_ofFn]
    exact encodesAxis_encodedFrame _ i

end Sys2Proof.Machine
end

section
/-! The encode commands against the spec's arithmetic (40_position_encode.md R120 to R130): what `ENCF` and
`ENCP` store, how the direction of an axis enters, and the ranges of the displacement. -/

namespace Sys2Proof.Machine

variable {s t : State} {i : Index} {a : Byte}

/-! What the encodes store. -/

/-- Settles O22: `ENCF a` answers `State.encodeAxis`, whose Frame and position are the spec's. -/
theorem encfEncodesItsAxis : Obligations.EncfEncodesItsAxis :=
  fun s i _ hb ha => ⟨_, _, exec_encf_of_operand hb ha, encodesAxis_encodedFrame s i⟩

/-- Settles O24: `ENCP` answers `State.encodeAll`, which holds for each axis what encoding it makes. -/
theorem encpEncodesEveryAxis : Obligations.EncpEncodesEveryAxis := by
  refine fun s hb => ⟨_, _, exec_encp_of_not_busy hb, fun i => ?_⟩
  rw [Six.get_ofFn, Six.get_ofFn]
  exact encodesAxis_encodedFrame s i

/-- The state with these slots, `PVALID` bits and `LAST`: all that an encode writes. -/
def State.withEncoded (s : State) (p : Six Frame) (v : Six Bool) (l : Six (BitVec 48)) : State :=
  { s with pkt := p, pvalid := v, last := l }

/-- An encode reads nothing that an encode writes. -/
theorem State.withEncoded_encodeAxis (s : State) (p : Six Frame) (v : Six Bool) (l : Six (BitVec 48))
    (i : Index) :
    (s.withEncoded p v l).encodeAxis i =
      s.withEncoded (p.set i (s.encodedFrame i)) (v.set i true)
        (l.set i (BitVec.ofInt 48 (s.positionOf i))) := rfl

/-- So the six encodes in order are the one of `ENCP` (40_position_encode.md R128). -/
theorem State.encodeAxis_each (s : State) :
    (((((s.encodeAxis 0).encodeAxis 1).encodeAxis 2).encodeAxis 3).encodeAxis 4).encodeAxis 5 =
      s.encodeAll := by
  have start : s = s.withEncoded s.pkt s.pvalid s.last := rfl
  conv_lhs => rw [start]
  simp only [State.withEncoded_encodeAxis, Six.set_each]
  rfl

/-- Settles O25: each `ENCF` answers `State.encodeAxis` and leaves the block not busy. -/
theorem encpIsSixEncf : Obligations.EncpIsSixEncf := by
  intro s hb
  have encode {t : State} (a : Byte) (i : Index) (ht : t.busy = false) (ha : a.toNat = i.val + 1) :
      exec (.encf a) t = .next (t.encodeAxis i) ∧ (t.encodeAxis i).busy = false :=
    ⟨exec_encf_of_operand ht ha, ht⟩
  obtain ⟨h1, hb1⟩ := encode 1 0 hb rfl
  obtain ⟨h2, hb2⟩ := encode 2 1 hb1 rfl
  obtain ⟨h3, hb3⟩ := encode 3 2 hb2 rfl
  obtain ⟨h4, hb4⟩ := encode 4 3 hb3 rfl
  obtain ⟨h5, hb5⟩ := encode 5 4 hb4 rfl
  obtain ⟨h6, -⟩ := encode 6 5 hb5 rfl
  refine ⟨_, _, _, _, _, _, h1, h2, h3, h4, h5, h6, ?_⟩
  rw [s.encodeAxis_each]
  exact exec_encp_of_not_busy hb

/-- Either command leaves the Frame of axis `i` in slot `i`. -/
theorem slot_of_encode (hb : s.busy = false) (ha : a.toNat = i.val + 1)
    (h : exec (.encf a) s = .next t ∨ exec .encp s = .next t) :
    t.pkt.get i = s.encodedFrame i := by
  rcases h with h | h
  · rw [exec_encf_of_operand hb ha] at h
    obtain rfl := Host.Outcome.next.inj h
    exact s.pkt.get_set_self i _
  · rw [exec_encp_of_not_busy hb] at h
    obtain rfl := Host.Outcome.next.inj h
    exact Six.get_ofFn _ i

/-- Settles O26: the Frame stored is the spec's, and its field reads back as any packed displacement
does. -/
theorem encodedFramesAreWellFormed : Obligations.EncodedFramesAreWellFormed := by
  intro s t i a hb ha h
  rw [slot_of_encode hb ha h]
  obtain ⟨-, haxis, hopcode, hspeed, hsubcommand, -, hchecksum⟩ := encodesAxis_encodedFrame s i
  obtain ⟨-, -, -, -, hcongruent, hinRange⟩ :=
    signedFieldRoundTrip.1 (s.displacementOf i) (axisId i) s.feed (s.encodedFrame i) rfl
  rw [s.displacementOf_eq_spec] at hcongruent hinRange
  exact ⟨hopcode, hsubcommand, hchecksum, haxis, hcongruent, hinRange, hspeed⟩

/-! The direction of an axis (40_position_encode.md R124). -/

/-- The state with this `INV`. -/
def State.withInv (s : State) (v : BitVec 6) : State := { s with inv := v }

theorem State.specDisplacement_withInv_neg (s : State) {v w : BitVec 6} (hc : s.config.invEffect = true)
    (hv : v.getLsbD i.val = true) (hw : w.getLsbD i.val = false) :
    specDisplacement (s.withInv v) i = -specDisplacement (s.withInv w) i := by
  have inverted : (s.withInv v).config.invEffect = true ∧ (s.withInv v).inv.getLsbD i.val = true :=
    ⟨hc, hv⟩
  have straight : ¬ ((s.withInv w).config.invEffect = true ∧
      (s.withInv w).inv.getLsbD i.val = true) := fun h => Bool.false_ne_true (hw.symm.trans h.2)
  rw [specDisplacement, specDisplacement, if_pos inverted, if_neg straight]
  rfl

/-- Settles O28: the two fields are opposite displacements modulo `2^24`, and the position has no sign of
its own. -/
theorem inversionNegatesTheDisplacement : Obligations.InversionNegatesTheDisplacement := by
  intro s i a v w hb ha hc hv hw
  refine ⟨(s.withInv v).encodeAxis i, (s.withInv w).encodeAxis i, exec_encf_of_operand hb ha,
    exec_encf_of_operand hb ha, ?fields, rfl⟩
  case fields =>
    obtain ⟨-, -, -, -, -, hfield, -⟩ := encodesAxis_encodedFrame (s.withInv v) i
    obtain ⟨-, -, -, -, -, hfield', -⟩ := encodesAxis_encodedFrame (s.withInv w) i
    rw [s.specDisplacement_withInv_neg hc hv hw] at hfield
    rw [State.encodeAxis_pkt, State.encodeAxis_pkt, Six.get_set_self, Six.get_set_self]
    omega

theorem State.inverted_of_no_effect (hc : s.config.invEffect = false) (i : Index) :
    s.inverted i = false := by simp [State.inverted, hc]

theorem State.encodedFrame_withInv (hc : s.config.invEffect = false) (v : BitVec 6) :
    (s.withInv v).encodedFrame = s.encodedFrame := by
  funext i
  have hs := State.inverted_of_no_effect hc i
  have hv := State.inverted_of_no_effect (s := s.withInv v) hc i
  simp only [State.encodedFrame, State.displacementOf, hs, hv]
  rfl

theorem State.encodeAxis_withInv (hc : s.config.invEffect = false) (v : BitVec 6) (i : Index) :
    (s.withInv v).encodeAxis i = (s.encodeAxis i).withInv v := by
  rw [State.encodeAxis, State.encodedFrame_withInv hc]
  rfl

theorem State.encodeAll_withInv (hc : s.config.invEffect = false) (v : BitVec 6) :
    (s.withInv v).encodeAll = s.encodeAll.withInv v := by
  rw [State.encodeAll, State.encodedFrame_withInv hc]
  rfl

theorem State.unlessBusy_withInv {t' : State} {v : BitVec 6} (h : t' = t.withInv v) :
    (s.withInv v).unlessBusy t' = (s.unlessBusy t).withInv v :=
  h ▸ (apply_ite (State.withInv · v) (s.busy = true) (s.raise .busy) t).symm

theorem State.ifComplete_withInv {t' : State} {v : BitVec 6} (h : t' = t.withInv v) :
    (s.withInv v).ifComplete t' = (s.ifComplete t).withInv v :=
  h ▸ (apply_ite (State.withInv · v) (s.pvalid.allTrue = true) t (s.raise .pkt)).symm

theorem State.transmit_withInv (s : State) (v : BitVec 6) (i : Index) (f : Frame) :
    (s.withInv v).transmit i f = (s.transmit i f).withInv v := by
  rw [State.transmit_eq, State.transmit_eq]
  rfl

/-- Only the encodes read `INV`; every other operation carries it along. -/
theorem exec_withInv (hc : s.config.invEffect = false) (v : BitVec 6) (i : Instr) :
    ∃ t, exec i s = .next t ∧ exec i (s.withInv v) = .next (t.withInv v) := by
  have checked {t t' : State} (h : t' = t.withInv v) :
      (.next ((s.withInv v).unlessBusy t') : Host.Outcome State Fault Refusal) =
        .next ((s.unlessBusy t).withInv v) :=
    congrArg _ (State.unlessBusy_withInv h)
  cases i with
  | nop => exact ⟨_, rfl, checked rfl⟩
  | encf a =>
    refine ⟨_, rfl, checked ?_⟩
    cases axisOperand a with
    | none => rfl
    | some j => exact State.encodeAxis_withInv hc v j
  | encp => exact ⟨_, rfl, checked (State.encodeAll_withInv hc v)⟩
  | ldf a =>
    refine ⟨_, rfl, checked ?_⟩
    cases slotOperand a with
    | none => rfl
    | some j => rfl
  | sync => exact ⟨_, rfl, checked (State.ifComplete_withInv rfl)⟩
  | send => exact ⟨_, rfl, checked (State.ifComplete_withInv rfl)⟩
  | axrst => exact ⟨_, rfl, checked rfl⟩
  | pclr => exact ⟨_, rfl, checked rfl⟩
  | frame axis speed disp checksum =>
    have hslot : (s.withInv v).presentedSlot = s.presentedSlot := rfl
    refine ⟨_, rfl, congrArg Host.Outcome.next ?_⟩
    rw [hslot]
    cases s.presentedSlot with
    | none => rfl
    | some j => exact s.transmit_withInv v j _

/-- Settles O27: the answers from `s` and from `s` with another `INV` differ in `INV` only. -/
theorem invHasNoEffectByDefault : Obligations.InvHasNoEffectByDefault := by
  intro s t i v hc h
  obtain ⟨t', ht', hv⟩ := exec_withInv hc v i
  obtain rfl := Host.Outcome.next.inj (ht'.symm.trans h)
  exact hv

/-! Ranges (40_position_encode.md R123). -/

/-- The displacement from the origin 0, in the direction of the axis. -/
theorem displacement_zero (p : Int) : displacement p 0 false = truncz (p * 100) := by
  simp [displacement]

theorem truncz_natAbs (n : Int) : (truncz n).natAbs = n.natAbs / 2 ^ 24 := Int.natAbs_tdiv ..

/-- Toward zero, whatever lies above `-2^23 - 1` truncates to `-2^23` or more: the range of the scaled
product is one unit wider at the low end. -/
theorem truncz_inRange_iff (n : Int) :
    (-2 ^ 23 ≤ truncz n ∧ truncz n ≤ 2 ^ 23 - 1) ↔
      (-8388609 * 2 ^ 24 < n ∧ n < 8388608 * 2 ^ 24) := by
  rw [truncz_eq]
  split <;> omega

/-- The field reads back as the displacement exactly in the signed 24-bit range (30_encoding.md R97). -/
theorem pack24_toInt_eq_iff (d : Int) : (pack24 d).toInt = d ↔ -2 ^ 23 ≤ d ∧ d ≤ 2 ^ 23 - 1 := by
  refine ⟨fun h => ?_, fun ⟨hlo, hhi⟩ => pack24_toInt_of_inRange hlo hhi⟩
  have hlo := (pack24 d).le_toInt
  have hhi := (pack24 d).toInt_lt
  rw [h] at hlo hhi
  omega

/-- Settles O29: the bound on `P` carries over to `N` and `d`. -/
theorem displacementStaysInRange : Obligations.DisplacementStaysInRange := by
  intro tgt gear
  have hposition := position_natAbs_le tgt gear
  rw [displacement_zero]
  refine ⟨hposition, by decide, position_toInt tgt gear, ?scaled, by decide, ?displacement, by decide,
    truncz_inRange_iff _, pack24_toInt_eq_iff _⟩
  case scaled => omega
  case displacement => rw [truncz_natAbs]; omega

end Sys2Proof.Machine
end

section
/-! The speed synchroniser (42_speed_sync.md R170 to R178): the reference speed against the sum, what
the rewrite of the slots leaves unchanged, and `SYNC` under the default `SPEED_NORM`. -/

namespace Sys2Proof.Machine

variable {s : State} {c : Config} {ref : BitVec 16}

theorem exec_sync_of_complete (hb : s.busy = false) (hv : s.pvalid = Six.fill true) :
    exec .sync s = .next s.normalize := by
  have hcomplete : s.pvalid.allTrue = true := s.pvalid.allTrue_iff.2 hv
  simp only [exec, execSync, State.unlessBusy_of_not_busy _ hb,
    State.ifComplete_of_complete _ hcomplete]

/-! The reference speed (42_speed_sync.md R171 to R173). -/

theorem speedTotal_le (p : Six Frame) : speedTotal p ≤ 393210 := by
  have bound (f : Frame) : speedNumber f ≤ 65535 := by
    rw [speedNumber_eq_toNat]
    exact Nat.le_of_lt_succ (speedOf f).isLt
  have := bound p.e0; have := bound p.e1; have := bound p.e2
  have := bound p.e3; have := bound p.e4; have := bound p.e5
  rw [speedTotal]
  omega

/-- The average of six 16-bit speeds fits in 16 bits, so storing it loses nothing. -/
theorem referenceSpeed_toNat (p : Six Frame) : (referenceSpeed p).toNat = speedTotal p / 6 := by
  have hsum : referenceSpeed p = BitVec.ofNat 16 (speedTotal p / 6) := by
    simp only [referenceSpeed, speedTotal, speedNumber_eq_toNat]
  have := speedTotal_le p
  rw [hsum, BitVec.toNat_ofNat]
  omega

theorem referenceSpeed_eq_zero_iff (p : Six Frame) : referenceSpeed p = 0 ↔ speedTotal p ≤ 5 := by
  have hzero : (0 : BitVec 16).toNat = 0 := rfl
  rw [← BitVec.toNat_inj, referenceSpeed_toNat, hzero]
  omega

/-- Six equal speeds are their own average. -/
theorem referenceSpeed_of_speedOf_eq {p : Six Frame} {v : BitVec 16}
    (h : ∀ i, speedOf (p.get i) = v) : referenceSpeed p = v := by
  have speed (i : Index) : speedNumber (p.get i) = v.toNat := by rw [speedNumber_eq_toNat, h]
  have htotal : speedTotal p = speedNumber (p.get 0) + speedNumber (p.get 1) + speedNumber (p.get 2)
      + speedNumber (p.get 3) + speedNumber (p.get 4) + speedNumber (p.get 5) := rfl
  rw [← BitVec.toNat_inj, referenceSpeed_toNat, htotal]
  simp only [speed]
  omega

/-! The rewrite of the slots (42_speed_sync.md R173 to R175). -/

theorem rewriteSpeeds_zero (c : Config) (p : Six Frame) : rewriteSpeeds c 0 p = p := if_pos rfl

theorem get_rewriteSpeeds (c : Config) (h : ref ≠ 0) (p : Six Frame) (i : Index) :
    (rewriteSpeeds c ref p).get i =
      withSpeed (p.get i) (normSpeed c (speedOf (p.get i)) ref) := by
  rw [rewriteSpeeds, if_neg h, Six.get_map]

/-- Settles O38: `SYNC` answers `State.normalize`, whose reference speed is the spec's average and whose
slots are the rewritten ones. -/
theorem syncComputesTheReferenceSpeed : Obligations.SyncComputesTheReferenceSpeed := by
  refine fun s hb hv => ⟨_, _, exec_sync_of_complete hb hv, referenceSpeed_toNat _, speedTotal_le _,
    referenceSpeed_eq_zero_iff _, fun hzero => ?unchanged, fun hne i => ?rewritten⟩
  case unchanged => rw [hzero, rewriteSpeeds_zero]
  case rewritten =>
    rw [get_rewriteSpeeds _ hne]
    refine ⟨rfl, ?_⟩
    rw [speedNumber_eq_toNat, speedOf_withSpeed, speedNumber_eq_toNat, BitVec.ofNat_toNat,
      BitVec.setWidth_eq]
    rfl

/-! The default `SPEED_NORM` (42_speed_sync.md R174, R178). -/

theorem normSpeed_default (hc : c.speedNorm = []) (speed : BitVec 16) (h : ref ≠ 0) :
    normSpeed c speed ref = speed := by
  rw [normSpeed, hc, speedNormOf_nil, speedNormExact_eq speed ref h]

/-- Over the rationals multiplying by `ref` undoes dividing by it, so the floor is of an integer. -/
theorem floor_div_mul_toNat (speed : BitVec 16) (h : ref ≠ 0) :
    ⌊((speed.toNat : ℚ) / ref.toNat) * ref.toNat⌋ = (speed.toNat : Int) := by
  have href : (ref.toNat : ℚ) ≠ 0 :=
    Nat.cast_ne_zero.2 fun h0 => h (BitVec.eq_of_toNat_eq h0)
  rw [div_mul_cancel₀ _ href, Int.floor_natCast]

/-- By default each speed is rewritten to itself. -/
theorem rewriteSpeeds_default (hc : c.speedNorm = []) (ref : BitVec 16) (p : Six Frame) :
    rewriteSpeeds c ref p = p := by
  by_cases h : ref = 0
  · rw [h, rewriteSpeeds_zero]
  · refine Six.ext_get fun i => ?_
    rw [get_rewriteSpeeds c h, normSpeed_default hc _ h, withSpeed_speedOf]

theorem State.normalize_default (hc : s.config.speedNorm = []) :
    s.normalize = { s with refSpeed := referenceSpeed s.pkt } := by
  rw [State.normalize, rewriteSpeeds_default hc]

/-- The slots a second normalisation averages are those the first did (42_speed_sync.md R178). -/
theorem State.normalize_normalize_default (hc : s.config.speedNorm = []) :
    s.normalize.normalize = s.normalize := by
  have again := State.normalize_default (s := s.normalize) hc
  rw [again, State.normalize_default hc]

theorem State.referenceSpeed_encodeAll (s : State) : referenceSpeed s.encodeAll.pkt = s.feed := by
  refine referenceSpeed_of_speedOf_eq fun i => ?_
  rw [State.encodeAll_pkt, Six.get_ofFn, State.encodedFrame, speedOf_buildFrame]

/-- Settles O39: by default normalising writes `REFSPEED` only, doing so twice is doing so once, and the
slots `ENCP` fills all have the speed `FEED`. -/
theorem syncByDefaultChangesOnlyRefspeed : Obligations.SyncByDefaultChangesOnlyRefspeed := by
  refine ⟨fun speed ref h => ?exact, fun s hc hb hv => ?_⟩
  case exact => rw [speedNormOf_nil, speedNormExact_eq speed ref h, floor_div_mul_toNat speed h]
  refine ⟨s.normalize, exec_sync_of_complete hb hv, State.normalize_default hc, ?again, s.encodeAll,
    s.encodeAll.normalize, exec_encp_of_not_busy hb, exec_sync_of_complete hb s.encodeAll_pvalid,
    ?afterEncp⟩
  case again => rw [exec_sync_of_complete (s := s.normalize) hb hv, State.normalize_normalize_default hc]
  case afterEncp =>
    rw [State.normalize_default (s := s.encodeAll) hc, State.referenceSpeed_encodeAll]

end Sys2Proof.Machine
end

section
/-! Starting and sending a packet (43_transmit.md R186, R195): `SEND`, and the `TXACC` of each slot. -/

namespace Sys2Proof.Machine

variable {s : State}

theorem exec_send_of_complete (hb : s.busy = false) (hv : s.pvalid = Six.fill true) :
    exec .send s = .next s.normalize.startPacket := by
  have hcomplete : s.pvalid.allTrue = true := s.pvalid.allTrue_iff.2 hv
  simp only [exec, execSend, State.unlessBusy_of_not_busy _ hb,
    State.ifComplete_of_complete _ hcomplete]

/-- Settles O41: `SYNC` answers `State.normalize` and `SEND` starts the packet from there. -/
theorem sendStartsThePacket : Obligations.SendStartsThePacket :=
  fun s hb hv => ⟨s.normalize, exec_sync_of_complete hb hv, exec_send_of_complete hb hv⟩

/-- Settles O42: the slot that `TXIDX` names is transmitted, and no slot is presented in another state. -/
theorem txaccSendsTheNextFrame : Obligations.TxaccSendsTheNextFrame := by
  refine ⟨fun s k f rest hschedule hs hk hf => ?sent, fun s henabled => ?sending⟩
  case sent =>
    subst hf
    rw [step_txacc hschedule hs hk, State.transmit_eq, marshal_eq]
    simp only [hs]
  case sending =>
    obtain ⟨i, hi⟩ := Option.isSome_iff_exists.1 henabled
    exact ((s.presentedSlot_eq_some i).1 hi).1

/-- A slot that decodes holds the bytes of a FRAME. -/
theorem exists_frame_of_decode {f : Frame} {i : Instr} (h : decode (.frame f.toBits) = .ok i) :
    ∃ axis speed disp checksum,
      i = .frame axis speed disp checksum ∧ f = frameBytes axis speed disp checksum := by
  have hcode : encode i = .frame f.toBits := decode_eq_ok_iff.1 h
  cases i with
  | frame axis speed disp checksum =>
    rw [encode_frame, Code.frame.injEq, Frame.toBits_inj] at hcode
    exact ⟨axis, speed, disp, checksum, rfl, hcode.symm⟩
  | _ => cases hcode

/-- Settles O20: the `TXACC` and the FRAME that the slot decodes to transmit the same bytes. -/
theorem stepTransmitsThePresentedFrame : Obligations.StepTransmitsThePresentedFrame := by
  intro s k rest i hschedule hs hk hdecode
  obtain ⟨axis, speed, disp, checksum, rfl, hbytes⟩ := exists_frame_of_decode hdecode
  have hpresented : State.presentedSlot { s with schedule := rest } = some k :=
    (State.presentedSlot_eq_some _ k).2 ⟨hs, hk⟩
  rw [step_txacc hschedule hs hk, exec_frame_of_presented hpresented, hbytes]

end Sys2Proof.Machine
end

section
/-! Receiving and counting while awaiting (43_transmit.md R200 to R206): what a frame does to the two
latest statuses, and what a tick does to `TIMER`. -/

namespace Sys2Proof.Machine

variable {s : State} {f : RxFrame} {id : BitVec 11} {k st : AckStatus}

/-! The status a frame carries. -/

theorem ackNumber_of_statusOf (h : statusOf f = some st) :
    ∃ b, f.data[1]? = some b ∧ ackNumber st = b.toNat := by
  rcases statusOf_cases f with ⟨hb, hst⟩ | ⟨hb, hst⟩ | ⟨-, -, hst⟩
  · obtain rfl := Option.some.inj (hst.symm.trans h)
    exact ⟨1, hb, rfl⟩
  · obtain rfl := Option.some.inj (hst.symm.trans h)
    exact ⟨2, hb, rfl⟩
  · rw [hst] at h
    cases h

/-- The frames that count are those the block takes a status from (43_transmit.md R200). -/
theorem accepted_iff : accepted f ↔ (f.id = 1 ∨ f.id = 2) ∧ ∃ st, statusOf f = some st := by
  have hdlc {b : Byte} (hb : f.data[1]? = some b) : 2 ≤ f.dlc :=
    (List.getElem?_eq_some_iff.1 hb).1
  rcases statusOf_cases f with ⟨hb, hst⟩ | ⟨hb, hst⟩ | ⟨h1, h2, hst⟩
  · simp [accepted, hst, hb, hdlc hb]
  · simp [accepted, hst, hb, hdlc hb]
  · have hnone : ¬ (f.data[1]? = some 1 ∨ f.data[1]? = some 2) := not_or.2 ⟨h1, h2⟩
    simp only [accepted, hst, hnone, and_false, reduceCtorEq, exists_false]

/-- The status held for responder `id` after a frame, when `k` was held before (43_transmit.md R201). -/
def ackAfter (id : BitVec 11) (k : AckStatus) (f : RxFrame) : AckStatus :=
  if f.id = id then (statusOf f).getD k else k

theorem ackAfter_of_ne (h : f.id ≠ id) (k : AckStatus) : ackAfter id k f = k := if_neg h

theorem ackAfter_of_status (h : statusOf f = some st) (id : BitVec 11) (k : AckStatus) :
    ackAfter id k f = if f.id = id then st else k := by
  simp only [ackAfter, h, Option.getD_some]

theorem ackAfter_of_not_accepted (h : ¬ accepted f) (hid : id = 1 ∨ id = 2) (k : AckStatus) :
    ackAfter id k f = k := by
  by_cases hf : f.id = id
  · have hst : statusOf f = none := by
      rw [Option.eq_none_iff_forall_not_mem]
      exact fun st hst => h (accepted_iff.2 ⟨hf ▸ hid, st, hst⟩)
    simp [ackAfter, hst]
  · exact ackAfter_of_ne hf k

theorem ackNumber_ackAfter (id : BitVec 11) (k : AckStatus) (f : RxFrame) :
    ackNumber (ackAfter id k f) =
      if f.id = id ∧ f.data[1]? = some 1 then 1
      else if f.id = id ∧ f.data[1]? = some 2 then 2 else ackNumber k := by
  by_cases hid : f.id = id
  · rcases statusOf_cases f with ⟨hb, hst⟩ | ⟨hb, hst⟩ | ⟨h1, h2, hst⟩
    · simp [ackAfter, hid, hb, hst, ackNumber]
    · simp [ackAfter, hid, hb, hst, ackNumber]
    · rw [if_neg fun h => h1 h.2, if_neg fun h => h2 h.2]
      simp [ackAfter, hst]
  · simp [ackAfter, hid]

/-! `RX`. -/

theorem State.bothDone_iff (s : State) :
    s.bothDone = true ↔ s.ack1 = .status2 ∧ s.ack2 = .status2 := by
  simp [State.bothDone]

theorem ackNumber_eq_two_iff : ackNumber k = 2 ↔ k = .status2 := by
  cases k <;> simp [ackNumber]

/-- A resolution field by field (43_transmit.md R200, R202). -/
theorem State.resolve_eq (s : State) :
    s.resolve = { s with
      fsm := if ackNumber s.ack1 = 2 ∧ ackNumber s.ack2 = 2 then .satisfied else s.fsm
      ev := { s.ev with
        sat := s.ev.sat || decide (ackNumber s.ack1 = 2 ∧ ackNumber s.ack2 = 2) } } := by
  have hiff : s.bothDone = true ↔ ackNumber s.ack1 = 2 ∧ ackNumber s.ack2 = 2 := by
    rw [s.bothDone_iff, ackNumber_eq_two_iff, ackNumber_eq_two_iff]
  rcases s.resolve_cases with ⟨hdone, h⟩ | ⟨hdone, h⟩ <;> rw [h] <;>
    simp [← hiff, hdone]

/-- The two latest statuses after a frame. -/
def State.recordBoth (s : State) (f : RxFrame) : State :=
  { s with ack1 := ackAfter 1 s.ack1 f, ack2 := ackAfter 2 s.ack2 f }

theorem State.recordBoth_of_not_accepted (h : ¬ accepted f) (s : State) : s.recordBoth f = s := by
  rw [State.recordBoth, ackAfter_of_not_accepted h (.inl rfl), ackAfter_of_not_accepted h (.inr rfl)]

theorem State.receive_of_accepted (hs : s.fsm = .awaitingAck) (h : accepted f) :
    s.receive f = (s.recordBoth f).resolve := by
  obtain ⟨hid, st, hst⟩ := accepted_iff.1 h
  rcases hid with hid | hid <;>
    simp [State.receive, State.recordAck, State.recordBoth, ackAfter, hs, hst, hid]

theorem State.receive_of_not_accepted (h : ¬ accepted f) (s : State) : s.receive f = s := by
  rcases s.receive_cases f with hr | ⟨st, -, hst, ⟨hid, -⟩ | ⟨hid, -⟩⟩
  · exact hr
  · exact absurd (accepted_iff.2 ⟨.inl hid, st, hst⟩) h
  · exact absurd (accepted_iff.2 ⟨.inr hid, st, hst⟩) h

/-- Settles O44: an accepted frame records its status and may resolve the packet, any other is
ignored. -/
theorem rxRecordsTheLatestStatus : Obligations.RxRecordsTheLatestStatus := by
  refine ⟨fun s f rest hschedule hs => ⟨fun h => ?ignored, fun h => ?recorded⟩, fun s f => ?enabled⟩
  case ignored => rw [step_rx hschedule hs, State.receive_of_not_accepted h]
  case recorded =>
    obtain ⟨-, st, hst⟩ := accepted_iff.1 h
    obtain ⟨b, hb, hnumber⟩ := ackNumber_of_statusOf hst
    refine ⟨ackAfter 1 s.ack1 f, ackAfter 2 s.ack2 f, b, hb, ?_, ?_, ?_⟩
    · rw [ackAfter_of_status hst, apply_ite ackNumber, hnumber]
    · rw [ackAfter_of_status hst, apply_ite ackNumber, hnumber]
    · have hreceive := State.receive_of_accepted (s := { s with schedule := rest }) hs h
      rw [step_rx hschedule hs, hreceive, State.resolve_eq]
      simp only [State.recordBoth, hs]
  case enabled => simp [State.enabled]

/-! `TICK`. -/

theorem State.tick_of_counting (hs : s.fsm = .awaitingAck)
    (h : s.timer.toNat + 1 ≤ s.timeout.toNat) : s.tick = { s with timer := s.timer + 1 } := by
  simp only [State.tick, if_pos hs, if_neg (Nat.not_lt.2 h)]

theorem State.tick_of_expired (hs : s.fsm = .awaitingAck)
    (h : s.timeout.toNat < s.timer.toNat + 1) :
    s.tick = { s with timer := s.timer + 1, fsm := .timedOut
                      ev := { s.ev with timedOut := true } } := by
  simp only [State.tick, if_pos hs, if_pos h]

/-- Settles O45: a tick has no effect, is counted, or times the packet out; `TIMER` does not wrap while
it is at most `TIMEOUT`. -/
theorem tickCountsAndTimesOut : Obligations.TickCountsAndTimesOut := by
  intro s rest hschedule htimer
  rw [step_tick hschedule]
  refine ⟨s.timer + 1, fun hs => ?count, congrArg Host.Outcome.next ?next⟩
  case count =>
    have hle : s.timer.toNat ≤ s.timeout.toNat := by simpa only [State.timerOk, hs] using htimer
    exact State.timer_succ_toNat hle
  case next =>
    rcases State.tick_cases { s with schedule := rest } with ⟨hs, h⟩ | ⟨hs, ht, h⟩ | ⟨hs, ht, h⟩
    · rw [h, if_pos hs]
    · rw [h, if_neg (not_not.2 hs), if_neg (Nat.not_lt.2 ht)]
    · rw [h, if_neg (not_not.2 hs), if_pos ht]

end Sys2Proof.Machine
end

section
/-! The moves of `FSM` (43_transmit.md R210) and the packet barrier (43_transmit.md R211, R212): the
effects of a step, one by one. -/

namespace Sys2Proof.Machine

variable {s t : State} {e : Event}

/-! The transitions of `FSM`. -/

/-- A recorded status moves `FSM` only when both are then 2 (43_transmit.md R200, R202). -/
theorem State.resolve_fsm_moves (h : s.resolve.fsm ≠ s.fsm) :
    s.resolve.ack1 = .status2 ∧ s.resolve.ack2 = .status2 ∧ s.resolve.fsm = .satisfied ∧
      s.resolve.ev.sat = true := by
  rcases s.resolve_cases with ⟨hdone, hr⟩ | ⟨-, hr⟩
  · obtain ⟨hack1, hack2⟩ := s.bothDone_iff.1 hdone
    rw [hr]
    exact ⟨hack1, hack2, rfl, rfl⟩
  · rw [hr] at h
    exact absurd rfl h

theorem State.fsm_at_rest (hb : s.busy = false) :
    s.fsm = .idle ∨ s.fsm = .satisfied ∨ s.fsm = .timedOut := by
  cases hs : s.fsm <;> simp [State.busy, Fsm.busy, hs] at hb ⊢

/-- Settles O46: a step does nothing or has one of the effects, of which five move `FSM`, each by its row
of the table. -/
theorem fsmMovesOnlyByItsTransitions : Obligations.FsmMovesOnlyByItsTransitions := by
  intro s t h hmoves
  rcases step_effect h with ⟨-, rfl⟩ | ⟨e, rest, hnext, -, -, heffect⟩
  · exact absurd rfl hmoves
  rw [hnext]
  cases heffect with
  | send w hb hd hv => exact .inr (.inl ⟨w, rfl, hd, State.fsm_at_rest hb, hv, rfl⟩)
  | txacc i hs hx =>
    by_cases hlast : i.val = 5
    · obtain ⟨hfsm, htimer⟩ := State.transmit_last_slot { s with schedule := rest } i (s.pkt.get i) hlast
      exact .inr (.inr (.inl ⟨rfl, hs, hx.trans hlast, hfsm, by simp [hlast], htimer⟩))
    · exact absurd (State.transmit_earlier_slot _ i _ hlast).1 hmoves
  | rxFirst f st hs hid hst =>
    exact .inr (.inr (.inr (.inl
      ⟨f, rfl, accepted_iff.2 ⟨.inl hid, st, hst⟩, hs, State.resolve_fsm_moves hmoves⟩)))
  | rxSecond f st hs hid hst =>
    exact .inr (.inr (.inr (.inl
      ⟨f, rfl, accepted_iff.2 ⟨.inr hid, st, hst⟩, hs, State.resolve_fsm_moves hmoves⟩)))
  | tickTimesOut hs ht => exact .inr (.inr (.inr (.inr ⟨rfl, hs, ht, rfl, rfl, rfl⟩)))
  | rst => exact .inl ⟨rfl, rfl⟩
  | stored r v => exact absurd (State.regWrite_fsm _ r v) hmoves
  | _ => exact absurd rfl hmoves

/-! The frames of a packet. -/

@[simp] theorem packetFrames_length (p : Six Frame) : (packetFrames p).length = 6 := rfl

theorem lt_packetFrames_length (p : Six Frame) (i : Index) : i.val < (packetFrames p).length := i.isLt

theorem packetFrames_getElem (p : Six Frame) (i : Index) :
    (packetFrames p)[i.val]'(lt_packetFrames_length p i) = marshal (p.get i) := by
  simp only [packetFrames, List.getElem_map, Six.toList_getElem]

/-- The frames of the slots up to and with slot `i`. -/
theorem packetFrames_take_succ (p : Six Frame) (i : Index) :
    (packetFrames p).take (i.val + 1) = (packetFrames p).take i.val ++ [marshal (p.get i)] := by
  rw [List.take_succ_eq_append_getElem (lt_packetFrames_length p i), packetFrames_getElem]

/-- The frames of the slots from slot `i` on. -/
theorem packetFrames_drop (p : Six Frame) (i : Index) :
    (packetFrames p).drop i.val = marshal (p.get i) :: (packetFrames p).drop (i.val + 1) := by
  rw [List.drop_eq_getElem_cons (lt_packetFrames_length p i), packetFrames_getElem]

/-! The barrier. -/

/-- The packet `p` was started after the frames `before` and the block was not reset since: its slots
hold `p`, the first `TXIDX` of them went out, and `TXIDX` agrees with `FSM` (43_transmit.md R195,
R211). -/
structure State.Carries (s : State) (before : List TxFrame) (p : Six Frame) : Prop where
  sent : s.sentSince before
  slots : s.pkt = p
  index : s.txIdxOk
  started : s.fsm ≠ .idle

variable {before : List TxFrame} {p : Six Frame}

theorem State.Carries.transmit (h : s.Carries before p) {i : Index} (hs : s.fsm = .sending)
    (hx : s.txIdx.val = i.val) : (s.transmit i (s.pkt.get i)).Carries before p where
  sent := by
    have hsent : s.emitted = before ++ (packetFrames s.pkt).take s.txIdx.val := h.sent
    simp only [State.sentSince, State.transmit_emitted, State.transmit_pkt, State.transmit_txIdx,
      Fin.val_succ, packetFrames_take_succ, hsent, hx, List.append_assoc]
  slots := (s.transmit_pkt i _).trans h.slots
  index := by
    rw [State.transmit_eq]
    by_cases hlast : i = 5
    · simp [State.txIdxOk, hlast]
    · have hne : i.val ≠ 5 := fun hv => hlast (Fin.ext hv)
      have hlt : i.succ.val < 6 := by rw [Fin.val_succ]; omega
      simpa only [State.txIdxOk, hs, if_neg hlast] using hlt
  started := by
    rw [State.transmit_eq]
    split_ifs <;> simp [hs]

/-- A status recorded while awaiting keeps what went out, whether or not it resolves the packet. -/
theorem State.Carries.resolve (h : s.Carries before p) (hs : s.fsm = .awaitingAck) :
    s.resolve.Carries before p := by
  rcases s.resolve_cases with ⟨-, hr⟩ | ⟨-, hr⟩ <;> rw [hr]
  · have hx : s.txIdx.val = 6 := by simpa only [State.txIdxOk, hs] using h.index
    exact ⟨h.sent, h.slots, hx, by simp⟩
  · exact h

/-- While busy the slots are written by nothing but a reset (20_memory.md R71, R77). -/
theorem Effect.carries (h : Effect s e t) (hb : s.busy = true) (hrst : e ≠ .rst)
    (hs : s.Carries before p) : t.Carries before p := by
  have notAtRest {t : State} (hidle : s.busy = false) : t.Carries before p := by
    rw [hb] at hidle
    cases hidle
  cases h with
  | busy => exact ⟨hs.sent, hs.slots, hs.index, hs.started⟩
  | rd => exact ⟨hs.sent, hs.slots, hs.index, hs.started⟩
  | txacc i hsending hx => exact hs.transmit hsending hx
  | rxIgnored => exact hs
  | rxFirst f st hwait =>
    exact State.Carries.resolve ⟨hs.sent, hs.slots, hs.index, hs.started⟩ hwait
  | rxSecond f st hwait =>
    exact State.Carries.resolve ⟨hs.sent, hs.slots, hs.index, hs.started⟩ hwait
  | tickIdle => exact hs
  | tickCounts => exact ⟨hs.sent, hs.slots, hs.index, hs.started⟩
  | tickTimesOut hwait =>
    have hx : s.txIdx.val = 6 := by simpa only [State.txIdxOk, hwait] using hs.index
    exact ⟨hs.sent, hs.slots, hx, by simp⟩
  | rst => exact absurd rfl hrst
  | ignored _ _ hidle | stored _ _ hidle | refused _ _ hidle | encf _ _ hidle | encp _ hidle
  | ldf _ _ hidle | sync _ hidle | send _ hidle | axrst _ hidle | pclr _ hidle => exact notAtRest hidle

/-- No agent's step writes the coming steps. -/
theorem Effect.schedule (h : Effect s e t) : t.schedule = s.schedule := by
  cases h with
  | txacc i => exact s.transmit_schedule i _
  | stored r v => exact s.regWrite_schedule r v
  | rxFirst => exact State.resolve_schedule _
  | rxSecond => exact State.resolve_schedule _
  | _ => rfl

/-- One step of a busy block whose coming steps hold no reset. -/
theorem State.Carries.step (h : s.Carries before p ∧ Event.rst ∉ s.schedule) (hb : s.busy = true)
    (hstep : step s = .next t) : t.Carries before p ∧ Event.rst ∉ t.schedule := by
  obtain ⟨hs, hrst⟩ := h
  rcases step_effect hstep with ⟨-, rfl⟩ | ⟨e, rest, -, he, hrest, heffect⟩
  · exact ⟨hs, hrst⟩
  · have hs' : State.Carries { s with schedule := rest } before p :=
      ⟨hs.sent, hs.slots, hs.index, hs.started⟩
    refine ⟨heffect.carries hb (fun h => hrst (h ▸ he)) hs', fun hmem => hrst ?_⟩
    rw [heffect.schedule] at hmem
    exact hrest _ hmem

/-- A run that answers a next state takes its first step to one. -/
theorem exists_step_of_run {n : Nat} (h : Host.Core.run Sys2Proof.core (n + 1) s = .next t) :
    ∃ u, step s = .next u ∧ Host.Core.run Sys2Proof.core n u = .next t := by
  cases hstep : step s with
  | next u => exact ⟨u, rfl, (run_of_step n hstep).symm.trans h⟩
  | fault r => cases r
  | refused r =>
    simp only [Host.Core.run] at h
    rw [show Sys2Proof.core.step s = .refused r from hstep] at h
    cases h

/-- What every step from a busy state keeps, a run keeps as long as it is busy. -/
theorem run_keeps_while_busy {P : State → Prop}
    (hkeeps : ∀ s t, P s → s.busy = true → step s = .next t → P t) {n : Nat} (hs : P s)
    (hbusy : ∀ m u, m < n → Host.Core.run Sys2Proof.core m s = .next u → State.busy u = true)
    (hrun : Host.Core.run Sys2Proof.core n s = .next t) : P t := by
  induction n generalizing s with
  | zero =>
    obtain rfl := Host.Outcome.next.inj hrun
    exact hs
  | succ n ih =>
    obtain ⟨u, hstep, hrest⟩ := exists_step_of_run hrun
    refine ih (hkeeps s u hs (hbusy 0 s n.succ_pos rfl) hstep) (fun m v hm hv => ?_) hrest
    exact hbusy (m + 1) v (Nat.succ_lt_succ hm) ((run_of_step m hstep).trans hv)

/-- A packet in progress that has left the busy states has sent everything and is resolved. -/
theorem State.Carries.resolved (h : s.Carries before p) (hb : s.busy = false) :
    s.emitted = before ++ packetFrames p ∧ (s.fsm = .satisfied ∨ s.fsm = .timedOut) := by
  have hresolved := (State.fsm_at_rest hb).resolve_left h.started
  have hx : s.txIdx.val = 6 := by
    rcases hresolved with hs | hs <;> simpa only [State.txIdxOk, hs] using h.index
  have hsent : s.emitted = before ++ (packetFrames s.pkt).take s.txIdx.val := h.sent
  rw [h.slots, hx, List.take_of_length_le (packetFrames_length p).le] at hsent
  exact ⟨hsent, hresolved⟩

/-- Settles O47: the start of a packet carries it, and every step of a busy block keeps that. -/
theorem packetBarrier : Obligations.PacketBarrier := by
  intro n s t hs hx hrst hbusy hrun
  have hstart : s.Carries s.emitted s.pkt :=
    ⟨by simp [State.sentSince, hx], rfl, by simp [State.txIdxOk, hs, hx], by simp [hs]⟩
  obtain ⟨hcarries, -⟩ :=
    run_keeps_while_busy (fun _ _ => State.Carries.step) ⟨hstart, hrst⟩ hbusy hrun
  exact ⟨hcarries.sent, hcarries.slots, hcarries.resolved⟩

end Sys2Proof.Machine
end

section
/-! Packets that resolve in bounded time (43_transmit.md R213, R214): the run of the six `TXACC`, of ticks
alone, and of ticks mixed with frames while one expected responder stays silent. -/

namespace Sys2Proof.Machine

variable {s : State} {f : RxFrame} {es rest : List Event} {id silent : BitVec 11} {k : AckStatus}

/-! The six `TXACC`. -/

/-- All slots sent: the frames from slot `TXIDX` on have gone out and the wait begins (43_transmit.md
R195). -/
def State.sendRest (s : State) : State :=
  { s with emitted := s.emitted ++ (packetFrames s.pkt).drop s.txIdx.val, txIdx := 6, timer := 0
           fsm := .awaitingAck }

/-- Sending one slot more first sends the same frames. -/
theorem State.sendRest_transmit {i : Index} (hx : s.txIdx.val = i.val) :
    (s.transmit i (s.pkt.get i)).sendRest = s.sendRest := by
  simp [State.sendRest, State.transmit_eq, packetFrames_drop, hx]

/-- The last slot is all that is left to send. -/
theorem State.transmit_five (hx : s.txIdx.val = 5) : s.transmit 5 (s.pkt.get 5) = s.sendRest := by
  have hx5 : s.txIdx.val = (5 : Index).val := hx
  rw [State.transmit_eq, State.sendRest, hx5, packetFrames_drop]
  rfl

theorem step_txacc_withSchedule {i : Index} (hs : s.fsm = .sending) (hx : s.txIdx.val = i.val) :
    step (s.withSchedule (.txacc :: rest)) =
      .next ((s.transmit i (s.pkt.get i)).withSchedule rest) := by
  refine (step_txacc (s := s.withSchedule (.txacc :: rest)) rfl hs hx).trans (congrArg _ ?_)
  rw [State.transmit_eq, State.transmit_eq]
  rfl

/-- A `TXACC` for every slot left, of which there is at least one, sends the rest of the packet. -/
theorem run_txaccs (n j : Nat) (hs : s.fsm = .sending) (hj : s.txIdx.val + (j + 1) = 6) :
    Host.Core.run Sys2Proof.core (n + (j + 1))
        (s.withSchedule (List.replicate (j + 1) .txacc ++ rest)) =
      Host.Core.run Sys2Proof.core n (s.sendRest.withSchedule rest) := by
  induction j generalizing s with
  | zero =>
    have hx : s.txIdx.val = 5 := by omega
    rw [← State.transmit_five hx]
    exact run_of_step n (step_txacc_withSchedule hs hx)
  | succ j ih =>
    obtain ⟨i, hx⟩ : ∃ i : Index, s.txIdx.val = i.val := ⟨⟨s.txIdx.val, by omega⟩, rfl⟩
    have hearlier : i.val ≠ 5 := by omega
    rw [← State.sendRest_transmit hx]
    refine (run_of_step _ (step_txacc_withSchedule hs hx)).trans (ih ?_ ?_)
    · exact (s.transmit_earlier_slot i _ hearlier).1.trans hs
    · rw [State.transmit_txIdx, Fin.val_succ]
      omega

/-! Ticks alone. -/

/-- The state with `n` more ticks counted. -/
def State.counted (s : State) (n : Nat) : State := { s with timer := s.timer + BitVec.ofNat 32 n }

theorem State.counted_succ (s : State) (n : Nat) : (s.counted 1).counted n = s.counted (n + 1) := by
  simp only [State.counted, BitVec.add_assoc, ← BitVec.ofNat_add, Nat.add_comm 1 n]

@[simp] theorem State.counted_timeout (s : State) (n : Nat) : (s.counted n).timeout = s.timeout := rfl

/-- Up to one above `TIMEOUT`, which has 31 bits, the count does not wrap. -/
theorem State.timer_add_toNat {n : Nat} (h : s.timer.toNat + n ≤ s.timeout.toNat + 1) :
    (s.timer + BitVec.ofNat 32 n).toNat = s.timer.toNat + n := by
  have := s.timeout.isLt
  simp only [BitVec.toNat_add, BitVec.toNat_ofNat]
  omega

theorem step_tick_counting (hs : s.fsm = .awaitingAck)
    (h : s.timer.toNat + 1 ≤ s.timeout.toNat) :
    step (s.withSchedule (.tick :: rest)) = .next ((s.counted 1).withSchedule rest) :=
  (step_tick rfl).trans (congrArg _ (State.tick_of_counting (s := s.withSchedule rest) hs h))

/-- The packet timed out with `n` ticks counted (43_transmit.md R206). -/
def State.expired (s : State) (n : Nat) : State :=
  { s.counted n with fsm := .timedOut, ev := { s.ev with timedOut := true } }

/-- The ticks counted before the last one add to it. -/
theorem State.counted_expired (s : State) (n : Nat) :
    (s.counted n).expired 1 = s.expired (n + 1) := by
  simp only [State.expired, State.counted, BitVec.add_assoc, ← BitVec.ofNat_add]

theorem step_tick_expired (hs : s.fsm = .awaitingAck) (h : s.timeout.toNat < s.timer.toNat + 1) :
    step (s.withSchedule (.tick :: rest)) = .next ((s.expired 1).withSchedule rest) :=
  (step_tick rfl).trans (congrArg _ (State.tick_of_expired (s := s.withSchedule rest) hs h))

/-- Ticks that do not exceed `TIMEOUT` are counted. -/
theorem run_ticks (n k : Nat) (hs : s.fsm = .awaitingAck) (h : s.timer.toNat + k ≤ s.timeout.toNat) :
    Host.Core.run Sys2Proof.core (n + k) (s.withSchedule (List.replicate k .tick ++ rest)) =
      Host.Core.run Sys2Proof.core n ((s.counted k).withSchedule rest) := by
  induction k generalizing s with
  | zero => simp [State.counted]
  | succ k ih =>
    have hcount : (s.counted 1).timer.toNat = s.timer.toNat + 1 := State.timer_add_toNat (by omega)
    refine (run_of_step (n + k) (step_tick_counting hs (by omega))).trans ?_
    rw [← s.counted_succ k]
    exact ih hs (by rw [hcount, State.counted_timeout]; omega)

/-- The tick that exceeds `TIMEOUT` times the packet out. -/
theorem run_last_tick (hs : s.fsm = .awaitingAck) (h : s.timer.toNat = s.timeout.toNat) :
    Host.Core.run Sys2Proof.core 1 (s.withSchedule (.tick :: rest)) =
      .next ((s.expired 1).withSchedule rest) :=
  run_of_step 0 (step_tick_expired hs (by omega))

/-- Ticks alone time the packet out. -/
theorem run_ticks_timeout {k : Nat} (hs : s.fsm = .awaitingAck)
    (h : s.timer.toNat + k = s.timeout.toNat) :
    Host.Core.run Sys2Proof.core (k + 1)
        (s.withSchedule (List.replicate (k + 1) .tick ++ rest)) =
      .next ((s.expired (k + 1)).withSchedule rest) := by
  have hcount : (s.counted k).timer.toNat = s.timer.toNat + k := State.timer_add_toNat (by omega)
  rw [List.replicate_succ', List.append_assoc, ← s.counted_expired, Nat.add_comm]
  exact (run_ticks 1 k hs h.le).trans (run_last_tick hs (hcount.trans h))

/-! Ticks and frames while one responder is silent. -/

/-- The status held for responder `id` after the steps `es`, when `k` was held before (43_transmit.md
R201). -/
def latestAck (id : BitVec 11) (k : AckStatus) : List Event → AckStatus
  | [] => k
  | .rx f :: es => latestAck id (ackAfter id k f) es
  | _ :: es => latestAck id k es

/-- As a number it is the latest status of the statements. -/
theorem ackNumber_latestAck (id : BitVec 11) (k : AckStatus) (es : List Event) :
    ackNumber (latestAck id k es) = latestStatus id (ackNumber k) es := by
  induction es generalizing k with
  | nil => rfl
  | cons e es ih =>
    cases e with
    | rx f => rw [latestAck, ih, ackNumber_ackAfter, latestStatus_rx]
    | _ => exact ih k

theorem latestAck_of_silent (h : ∀ e ∈ es, e = .tick ∨ ∃ f, e = .rx f ∧ f.id ≠ id) (k : AckStatus) :
    latestAck id k es = k := by
  induction es with
  | nil => rfl
  | cons e es ih =>
    obtain ⟨he, hes⟩ := List.forall_mem_cons.1 h
    rcases he with rfl | ⟨f, rfl, hf⟩
    · exact ih hes
    · rw [latestAck, ackAfter_of_ne hf, ih hes]

/-- The state after ticks and frames that do not resolve the packet. -/
def State.waited (s : State) (es : List Event) : State :=
  { s.counted (es.count .tick) with
    ack1 := latestAck 1 s.ack1 es, ack2 := latestAck 2 s.ack2 es }

theorem State.waited_tick (s : State) (es : List Event) :
    (s.counted 1).waited es = s.waited (.tick :: es) := by
  simp only [State.waited, s.counted_succ, List.count_cons_self]
  rfl

theorem State.waited_rx (s : State) (f : RxFrame) (es : List Event) :
    (s.recordBoth f).waited es = s.waited (.rx f :: es) := by
  have hcount : (Event.rx f :: es).count .tick = es.count .tick :=
    List.count_cons_of_ne (by simp)
  simp only [State.waited, hcount]
  rfl

/-- Without the silent responder's answer the packet is not resolved. -/
theorem State.staysSilent.bothDone (h : s.staysSilent silent es) : s.bothDone = false := by
  obtain ⟨⟨-, hnone⟩ | ⟨-, hnone⟩, -⟩ := h <;> simp [State.bothDone, hnone]

theorem State.staysSilent.of_tick (h : s.staysSilent silent (.tick :: es)) :
    (s.counted 1).staysSilent silent es :=
  ⟨h.1, (List.forall_mem_cons.1 h.2).2⟩

theorem State.staysSilent.of_rx (h : s.staysSilent silent (.rx f :: es)) :
    (s.recordBoth f).staysSilent silent es := by
  obtain ⟨hnone, hevents⟩ := h
  obtain ⟨hf, hes⟩ := List.forall_mem_cons.1 hevents
  have hne : f.id ≠ silent := by simpa using hf
  refine ⟨hnone.imp ?_ ?_, hes⟩
  · rintro ⟨rfl, hack⟩
    exact ⟨rfl, (ackAfter_of_ne hne _).trans hack⟩
  · rintro ⟨rfl, hack⟩
    exact ⟨rfl, (ackAfter_of_ne hne _).trans hack⟩

theorem State.receive_of_unresolved (hs : s.fsm = .awaitingAck)
    (h : (s.recordBoth f).bothDone = false) : s.receive f = s.recordBoth f := by
  by_cases ha : accepted f
  · rw [State.receive_of_accepted hs ha]
    simp [State.resolve, h]
  · rw [State.receive_of_not_accepted ha, State.recordBoth_of_not_accepted ha]

theorem step_rx_unresolved (hs : s.fsm = .awaitingAck) (h : (s.recordBoth f).bothDone = false) :
    step (s.withSchedule (.rx f :: rest)) = .next ((s.recordBoth f).withSchedule rest) :=
  (step_rx (s := s.withSchedule (.rx f :: rest)) rfl hs).trans
    (congrArg _ (State.receive_of_unresolved (s := s.withSchedule rest) hs h))

/-- While one responder is silent and the count does not exceed `TIMEOUT`, the packet waits on. -/
theorem run_waiting (n : Nat) (hs : s.fsm = .awaitingAck) (hsilent : s.staysSilent silent es)
    (h : s.timer.toNat + es.count .tick ≤ s.timeout.toNat) :
    Host.Core.run Sys2Proof.core (n + es.length) (s.withSchedule (es ++ rest)) =
      Host.Core.run Sys2Proof.core n ((s.waited es).withSchedule rest) := by
  induction es generalizing s with
  | nil => simp [State.waited, State.counted, latestAck]
  | cons e es ih =>
    rcases hsilent.2 e List.mem_cons_self with rfl | ⟨f, rfl, -⟩
    · rw [List.count_cons_self] at h
      have hcount : (s.counted 1).timer.toNat = s.timer.toNat + 1 := State.timer_add_toNat (by omega)
      rw [← s.waited_tick]
      refine (run_of_step _ (step_tick_counting hs (by omega))).trans (ih hs hsilent.of_tick ?_)
      rw [hcount, State.counted_timeout]
      omega
    · rw [List.count_cons_of_ne (by simp)] at h
      rw [← s.waited_rx]
      exact (run_of_step _ (step_rx_unresolved hs hsilent.of_rx.bothDone)).trans
        (ih hs hsilent.of_rx h)

/-- The state after the wait for a silent responder: one tick more than those of `es`, and the packet timed
out. -/
def State.gaveUp (s : State) (es : List Event) : State :=
  { s with timer := s.timer + BitVec.ofNat 32 (es.count .tick + 1)
           ack1 := latestAck 1 s.ack1 es, ack2 := latestAck 2 s.ack2 es
           fsm := .timedOut, ev := { s.ev with timedOut := true } }

theorem State.waited_expired (s : State) (es : List Event) :
    (s.waited es).expired 1 = s.gaveUp es := by
  simp only [State.gaveUp, State.expired, State.waited, State.counted, BitVec.add_assoc,
    ← BitVec.ofNat_add]

/-- The deciding tick counts one above `TIMEOUT`. -/
theorem State.deciding_timer (h : s.timer.toNat + es.count .tick = s.timeout.toNat) :
    (s.timer + BitVec.ofNat 32 (es.count .tick + 1)).toNat = s.timeout.toNat + 1 := by
  rw [State.timer_add_toNat (by omega)]
  omega

/-- The tick that exceeds `TIMEOUT` ends the wait for a silent responder. -/
theorem run_silent_timeout (hs : s.fsm = .awaitingAck) (hsilent : s.staysSilent silent es)
    (h : s.timer.toNat + es.count .tick = s.timeout.toNat) :
    Host.Core.run Sys2Proof.core (es.length + 1) (s.withSchedule (es ++ .tick :: rest)) =
      .next ((s.gaveUp es).withSchedule rest) := by
  have hcount : (s.waited es).timer.toNat = s.timer.toNat + es.count .tick :=
    State.timer_add_toNat (by omega)
  rw [← s.waited_expired, Nat.add_comm]
  exact (run_waiting 1 hs hsilent h.le).trans (run_last_tick hs (hcount.trans h))

/-! The whole packet. -/

/-- The start of a packet: all six frames are to be sent. -/
theorem State.sendRest_start (hx : s.txIdx = 0) :
    s.sendRest = { s with emitted := s.emitted ++ packetFrames s.pkt, txIdx := 6, timer := 0
                          fsm := .awaitingAck } := by
  rw [State.sendRest, hx]
  rfl

/-- The six `TXACC` from the start of a packet. -/
theorem run_six_txaccs (n : Nat) (hs : s.fsm = .sending) (hx : s.txIdx = 0)
    (hschedule : s.schedule = List.replicate 6 .txacc ++ rest) :
    Host.Core.run Sys2Proof.core (6 + n) s =
      Host.Core.run Sys2Proof.core n (s.sendRest.withSchedule rest) := by
  rw [Nat.add_comm, State.eq_withSchedule hschedule]
  exact run_txaccs n 5 hs (by rw [hx]; rfl)

/-- Settles O51: the six `TXACC` begin the wait at `TIMER` 0, and the wait ends with the tick that exceeds
`TIMEOUT`. -/
theorem packetTimesOutInBoundedSteps : Obligations.PacketTimesOutInBoundedSteps := by
  refine ⟨fun s rest hs hx hschedule => ?unanswered,
    fun s silent es rest hs hx hsilent hticks hschedule => ?silent⟩
  case unanswered =>
    have hstart : s.sendRest.timer.toNat + s.timeout.toNat = s.sendRest.timeout.toNat := Nat.zero_add _
    rw [List.append_assoc] at hschedule
    refine ⟨s.sendRest.timer + BitVec.ofNat 32 (s.timeout.toNat + 1), ?timer, ?run⟩
    case timer =>
      rw [State.timer_add_toNat (by omega)]
      exact Nat.zero_add _
    case run =>
      rw [run_six_txaccs _ hs hx hschedule, run_ticks_timeout rfl hstart, State.sendRest_start hx]
      rfl
  case silent =>
    have hstart : s.sendRest.timer.toNat + es.count .tick = s.sendRest.timeout.toNat :=
      (Nat.zero_add _).trans hticks
    refine ⟨_, _, _, State.deciding_timer (s := s.sendRest) hstart, ackNumber_latestAck ..,
      ackNumber_latestAck .., ?run⟩
    have hwait : s.sendRest.staysSilent silent es := hsilent
    rw [run_six_txaccs _ hs hx hschedule, run_silent_timeout rfl hwait hstart, State.sendRest_start hx]
    rfl

/-! Both responders answer 2. -/

theorem statusOf_of_two (h : f.data[1]? = some 2) : statusOf f = some .status2 := by
  rcases statusOf_cases f with ⟨hb, -⟩ | ⟨-, hst⟩ | ⟨-, hb, -⟩
  · rw [h] at hb
    cases hb
  · exact hst
  · exact absurd h hb

/-- The frame that completes the pair satisfies the packet (43_transmit.md R202). -/
theorem step_rx_satisfying (hs : s.fsm = .awaitingAck) (ha : accepted f)
    (h : (s.recordBoth f).bothDone = true) :
    step (s.withSchedule (.rx f :: rest)) = .next (State.withSchedule
      { s.recordBoth f with fsm := .satisfied, ev := { s.ev with sat := true } } rest) := by
  have hreceive : State.receive (s.withSchedule rest) f = _ := State.receive_of_accepted hs ha
  have hdone : State.bothDone ((s.withSchedule rest).recordBoth f) = true := h
  rw [State.resolve, if_pos hdone] at hreceive
  exact (step_rx (s := s.withSchedule (.rx f :: rest)) rfl hs).trans (congrArg _ hreceive)

/-- Frames of status 2 from both responders, in either order. -/
theorem State.recordBoth_recordBoth {g : RxFrame} (hids : (f.id = 1 ∧ g.id = 2) ∨ (f.id = 2 ∧ g.id = 1))
    (hf : statusOf f = some .status2) (hg : statusOf g = some .status2) (s : State) :
    (s.recordBoth f).recordBoth g = { s with ack1 := .status2, ack2 := .status2 } := by
  rcases hids with ⟨hfid, hgid⟩ | ⟨hfid, hgid⟩ <;>
    simp [State.recordBoth, ackAfter_of_status hf, ackAfter_of_status hg, hfid, hgid]

/-- The first frame leaves the other responder's answer open. -/
theorem State.bothDone_recordBoth (hid : f.id = 1 ∨ f.id = 2) (hack1 : s.ack1 = .noResponse)
    (hack2 : s.ack2 = .noResponse) : (s.recordBoth f).bothDone = false := by
  rcases hid with hid | hid <;>
    simp [State.recordBoth, State.bothDone, ackAfter, hack1, hack2, hid]

/-- Settles O52: after the ticks the first frame leaves the packet waiting and the second satisfies it;
with one responder silent the wait ends with the tick that exceeds `TIMEOUT`. -/
theorem bothAcksSatisfyThePacket : Obligations.BothAcksSatisfyThePacket := by
  refine ⟨fun s n f g rest hs hack1 hack2 hticks hids hf hg hschedule => ?satisfied,
    fun s silent es rest hs hsilent hticks hschedule => ?silent⟩
  case satisfied =>
    have hf2 := statusOf_of_two hf
    have hg2 := statusOf_of_two hg
    have hfid : f.id = 1 ∨ f.id = 2 := hids.imp And.left And.left
    have hg' : accepted g := accepted_iff.2 ⟨hids.symm.imp And.right And.right, _, hg2⟩
    have hpair := State.recordBoth_recordBoth hids hf2 hg2 (s.counted n)
    have hopen : ((s.counted n).recordBoth f).bothDone = false :=
      State.bothDone_recordBoth hfid hack1 hack2
    have hdone : (((s.counted n).recordBoth f).recordBoth g).bothDone = true := by rw [hpair]; rfl
    have hfirst := step_rx_unresolved (s := s.counted n) (rest := .rx g :: rest) hs hopen
    have hsecond := step_rx_satisfying (s := (s.counted n).recordBoth f) (rest := rest) hs hg' hdone
    rw [hpair] at hsecond
    refine ⟨s.timer + BitVec.ofNat 32 n, State.timer_add_toNat (by omega), ?_⟩
    rw [State.eq_withSchedule hschedule, Nat.add_comm]
    exact (run_ticks 2 n hs hticks).trans ((run_of_step 1 hfirst).trans (run_of_step 0 hsecond))
  case silent =>
    obtain ⟨hnone, hevents⟩ := hsilent
    refine ⟨_, _, _, State.deciding_timer hticks, ackNumber_latestAck .., ackNumber_latestAck ..,
      fun h => ?first, fun h => ?second, ?run⟩
    case first =>
      subst h
      exact (latestAck_of_silent hevents _).trans (by simpa using hnone)
    case second =>
      subst h
      exact (latestAck_of_silent hevents _).trans (by simpa using hnone)
    case run =>
      rw [State.eq_withSchedule hschedule]
      exact run_silent_timeout hs ⟨hnone, hevents⟩ hticks

end Sys2Proof.Machine
end

section
/-! The buffer commands and `NOP` (44_buffer_system.md R230 to R245): each is the busy check around one
write of the state, so what it answers while not busy is that write alone. -/

namespace Sys2Proof.Machine

variable {s : State}

theorem exec_pclr_of_not_busy (hb : s.busy = false) : exec .pclr s = .next s.clearValid := by
  simp only [exec, execPclr, State.unlessBusy_of_not_busy _ hb]

theorem exec_axrst_of_not_busy (hb : s.busy = false) : exec .axrst s = .next s.clearLast := by
  simp only [exec, execAxrst, State.unlessBusy_of_not_busy _ hb]

theorem exec_nop_of_not_busy (hb : s.busy = false) : exec .nop s = .next s := by
  simp only [exec, execNop, State.unlessBusy_of_not_busy _ hb]

/-- Settles O32: an operand in range fills its slot from `FIN`, and no byte of `FIN` is looked at. -/
theorem ldfLoadsTheStagedFrame : Obligations.LdfLoadsTheStagedFrame :=
  fun _ _ _ hb ha => exec_ldf_of_operand hb ha

/-- Settles O34: past the busy check `PCLR` is `State.clearValid`, which writes `PVALID` alone. -/
theorem pclrClearsOnlyValid : Obligations.PclrClearsOnlyValid :=
  fun _ hb => exec_pclr_of_not_busy hb

/-- Settles O35: past the busy check `AXRST` is `State.clearLast`, which writes `LAST` alone. -/
theorem axrstClearsOnlyLast : Obligations.AxrstClearsOnlyLast :=
  fun _ hb => exec_axrst_of_not_busy hb

/-- Settles O36: `NOP` has the busy check of every command and nothing after it. -/
theorem nopChangesNothing : Obligations.NopChangesNothing :=
  fun _ => ⟨exec_nop_of_not_busy, fun hb => exec_of_busy hb fun _ _ _ _ h => nomatch h⟩

end Sys2Proof.Machine
end

section
/-! Refusals, the interrupt line and the flags of `EV` (60_exceptions.md R262 to R270, R275): what a missing
slot answers, when `irq` is 1, that no aligned script stops, and how many flags one step raises. -/

namespace Sys2Proof.Machine

variable {s t : State} {e : Event}

/-! The completeness check of `SYNC` and `SEND` (60_exceptions.md R266). -/

/-- Both make the check before anything else, so a missing slot hides what they would have done. -/
theorem exec_of_incomplete (hb : s.busy = false) (hv : s.pvalid.allTrue = false) :
    exec .sync s = .next (s.raise .pkt) ∧ exec .send s = .next (s.raise .pkt) := by
  simp only [exec, execSync, execSend, State.unlessBusy_of_not_busy _ hb,
    State.ifComplete_of_incomplete _ hv, and_self]

/-- Settles O40: a slot that is not valid makes the packet incomplete. -/
theorem incompletePacketIsRefused : Obligations.IncompletePacketIsRefused := by
  intro s i hb hi
  have hincomplete : s.pvalid.allTrue = false := by
    rw [Bool.eq_false_iff]
    intro hall
    rw [s.pvalid.allTrue_iff.1 hall, Six.get_fill] at hi
    cases hi
  exact exec_of_incomplete hb hincomplete

/-! The interrupt output (60_exceptions.md R270). -/

/-- The flags set in both. -/
def EventFlags.both (f g : EventFlags) : EventFlags where
  sat := f.sat && g.sat
  timedOut := f.timedOut && g.timedOut
  errBusy := f.errBusy && g.errBusy
  errPkt := f.errPkt && g.errPkt
  errArg := f.errArg && g.errArg
  errOp := f.errOp && g.errOp

theorem EventFlags.toWord_both (f g : EventFlags) : (f.both g).toWord = f.toWord &&& g.toWord := by
  apply BitVec.eq_of_getLsbD_eq
  intro k hk
  rw [BitVec.getLsbD_and, EventFlags.getLsbD_toWord, EventFlags.getLsbD_toWord,
    EventFlags.getLsbD_toWord]
  interval_cases k <;> simp [EventFlags.both]

theorem bitNumber_eq_zero_iff (b : Bool) : bitNumber b = 0 ↔ b = false := by cases b <;> decide

/-- The flags stand at different bits, so none hides another. -/
theorem EventFlags.toWord_eq_zero_iff (f : EventFlags) : f.toWord = 0 ↔ f = .clear := by
  rw [← BitVec.toNat_inj, f.toWord_toNat]
  cases f
  simp [flagsNumber, bitNumber_eq_zero_iff, EventFlags.clear, and_assoc]

theorem EventFlags.meets_iff_both (f g : EventFlags) : f.meets g = true ↔ f.both g ≠ .clear := by
  rw [← Bool.not_eq_false, not_iff_not]
  simp [EventFlags.meets, EventFlags.both, EventFlags.clear, and_assoc]

/-- Settles O18: the flags set in both `EV` and `IE` read as the common bits of the two words. -/
theorem irqIsTheEnabledFlags : Obligations.IrqIsTheEnabledFlags := by
  intro s
  rw [show s.memRead 0x008 = s.ev.toWord from s.memRead_regAddr .ev,
    show s.memRead 0x00C = s.ie.toWord from s.memRead_regAddr .ie,
    ← EventFlags.toWord_both, Ne, EventFlags.toWord_eq_zero_iff]
  exact s.ev.meets_iff_both s.ie

/-! Scripts whose host accesses are aligned (20_memory.md R65). -/

/-- The only step without a meaning is an unaligned host access. -/
theorem perform_answers_next (s : State) (h : wellFormedSchedule [e]) :
    ∃ t, s.perform e = .next t := by
  have he := h e (List.mem_singleton_self e)
  cases e with
  | wr a v =>
    rw [State.perform, s.hostWrite_of_aligned he]
    exact memWrite_answers_next s a v
  | rd a => exact ⟨_, s.hostRead_of_aligned he⟩
  | _ => exact ⟨_, rfl⟩

/-- A script loses nothing of its well-formedness when events are taken out of it. -/
theorem wellFormedSchedule.subset {es fs : List Event} (h : wellFormedSchedule es)
    (hsub : ∀ e ∈ fs, e ∈ es) : wellFormedSchedule fs :=
  fun e he => h e (hsub e he)

/-- A step of a well-formed script answers, and what is left of the script is well-formed. -/
theorem step_wellFormedSchedule (h : wellFormedSchedule s.schedule) :
    ∃ t, step s = .next t ∧ wellFormedSchedule t.schedule := by
  obtain ⟨t, hstep⟩ : ∃ t, step s = .next t := by
    cases hf : s.firstEnabled s.schedule with
    | none => exact ⟨s, step_of_firstEnabled_none hf⟩
    | some p =>
      obtain ⟨e, rest⟩ := p
      obtain ⟨-, before, after, hs, -, -⟩ := State.firstEnabled_spec hf
      rw [step_of_firstEnabled hf]
      exact perform_answers_next _ (h.subset (by simp [hs]))
  refine ⟨t, hstep, ?_⟩
  rcases step_effect hstep with ⟨-, rfl⟩ | ⟨e, rest, -, -, hrest, heffect⟩
  · exact h
  · rw [heffect.schedule]
    exact h.subset hrest

/-- Settles O55, by induction on the number of steps. -/
theorem wellFormedScheduleNeverStops : Obligations.WellFormedScheduleNeverStops := by
  intro n s h
  induction n generalizing s with
  | zero => exact ⟨s, rfl⟩
  | succ n ih =>
    obtain ⟨t, hstep, ht⟩ := step_wellFormedSchedule h
    rw [run_of_step n hstep]
    exact ih t ht

/-! Flags that a step raises (60_exceptions.md R275). -/

/-- At most one flag is clear in `f` and set in `g`. -/
def EventFlags.RaisesAtMostOne (f g : EventFlags) : Prop :=
  ((List.zip (flagList f) (flagList g)).filter fun p => !p.1 && p.2).length ≤ 1

/-- Flags that only go down raise none. -/
theorem EventFlags.raisesAtMostOne_of_within {f g : EventFlags} (h : g.Within f) :
    f.RaisesAtMostOne g := by
  have hnone : (List.zip (flagList f) (flagList g)).filter (fun p => !p.1 && p.2) = [] := by
    rw [List.filter_eq_nil_iff]
    rintro ⟨a, b⟩ hmem hraised
    have hswap : (b, a) ∈ List.zip (flagList g) (flagList f) := by
      rw [← List.zip_swap]
      exact List.mem_map_of_mem (f := Prod.swap) hmem
    exact h _ hswap (by simpa [and_comm] using hraised)
  simp [EventFlags.RaisesAtMostOne, hnone]

theorem EventFlags.raisesAtMostOne_refl (f : EventFlags) : f.RaisesAtMostOne f :=
  EventFlags.raisesAtMostOne_of_within f.within_refl

theorem EventFlags.clear_within (f : EventFlags) : EventFlags.clear.Within f := by
  simp [EventFlags.Within, flagList, EventFlags.clear]

theorem EventFlags.clearBy_within (f w : EventFlags) : (f.clearBy w).Within f := by
  simp +contextual [EventFlags.Within, flagList, EventFlags.clearBy]

/-- The flags raised, counted one by one. -/
theorem EventFlags.raisesAtMostOne_iff (f g : EventFlags) :
    f.RaisesAtMostOne g ↔ (!f.sat && g.sat).toNat + (!f.timedOut && g.timedOut).toNat
      + (!f.errBusy && g.errBusy).toNat + (!f.errPkt && g.errPkt).toNat
      + (!f.errArg && g.errArg).toNat + (!f.errOp && g.errOp).toNat ≤ 1 := by
  have ite_eq_toNat (b : Bool) : (if b = true then 1 else 0) = b.toNat := by cases b <;> rfl
  simp only [EventFlags.RaisesAtMostOne, ← List.countP_eq_length_filter, flagList,
    List.zip_cons_cons, List.zip_nil_left, List.countP_cons, List.countP_nil, ite_eq_toNat]
  omega

theorem EventFlags.raisesAtMostOne_withErr (f : EventFlags) (e : Err) :
    f.RaisesAtMostOne (f.withErr e) := by
  rw [EventFlags.raisesAtMostOne_iff]
  cases e <;> simp [EventFlags.withErr, Bool.toNat_le]

theorem EventFlags.raisesAtMostOne_sat (f : EventFlags) :
    f.RaisesAtMostOne { f with sat := true } := by
  simp [EventFlags.raisesAtMostOne_iff, Bool.toNat_le]

theorem EventFlags.raisesAtMostOne_timedOut (f : EventFlags) :
    f.RaisesAtMostOne { f with timedOut := true } := by
  simp [EventFlags.raisesAtMostOne_iff, Bool.toNat_le]

theorem State.resolve_raisesAtMostOne (s : State) : s.ev.RaisesAtMostOne s.resolve.ev := by
  rcases s.resolve_cases with ⟨-, h⟩ | ⟨-, h⟩ <;> rw [h]
  · exact s.ev.raisesAtMostOne_sat
  · exact s.ev.raisesAtMostOne_refl

/-- A write to `EV` only clears flags, and no other register holds any. -/
theorem State.regWrite_ev_within (s : State) (r : HostReg) (v : Word) :
    (s.regWrite r v).ev.Within s.ev := by
  by_cases hr : r = .ev
  · subst hr
    exact s.ev.clearBy_within _
  · rw [State.regWrite_ev_of_ne hr]
    exact s.ev.within_refl

/-- A refusal, a resolution and a time-out raise one flag each; no other effect raises any. -/
theorem Effect.raisesAtMostOne (h : Effect s e t) : s.ev.RaisesAtMostOne t.ev := by
  cases h with
  | busy => exact s.ev.raisesAtMostOne_withErr _
  | refused => exact s.ev.raisesAtMostOne_withErr _
  | stored r v => exact EventFlags.raisesAtMostOne_of_within (s.regWrite_ev_within r v)
  | txacc i =>
    rw [s.transmit_ev i]
    exact s.ev.raisesAtMostOne_refl
  | rxFirst _ st => exact State.resolve_raisesAtMostOne { s with ack1 := st }
  | rxSecond _ st => exact State.resolve_raisesAtMostOne { s with ack2 := st }
  | tickTimesOut => exact s.ev.raisesAtMostOne_timedOut
  | rst => exact EventFlags.raisesAtMostOne_of_within s.ev.clear_within
  | _ => exact s.ev.raisesAtMostOne_refl

/-- Settles O57: a step does nothing or has one of the effects. -/
theorem oneFlagPerStep : Obligations.OneFlagPerStep := by
  intro s t h
  rcases step_effect h with ⟨-, rfl⟩ | ⟨e, rest, -, -, -, heffect⟩
  · exact t.ev.raisesAtMostOne_refl
  · exact heffect.raisesAtMostOne

end Sys2Proof.Machine
end

section
/-! The steps of one clock cycle (60_exceptions.md R275): `RX` before `TICK` before the host access, `TXACC`
before both, and `RST` alone. -/

namespace Sys2Proof.Machine

variable {s : State} {f : RxFrame} {rest : List Event}

/-! What a cycle brings. -/

/-- In `AWAITING_ACK` no frame is presented, so a received frame stands first. -/
theorem State.cycleEvents_of_rx (hs : s.fsm = .awaitingAck) (ready : Bool) (f : RxFrame)
    (host : Option Event) :
    s.cycleEvents ready (some f) true host false = .rx f :: .tick :: host.toList := by
  simp [State.cycleEvents, State.enabled, State.presentedSlot, hs]

theorem State.cycleEvents_of_no_rx (hs : s.fsm = .awaitingAck) (ready : Bool) (host : Option Event) :
    s.cycleEvents ready none true host false = .tick :: host.toList := by
  simp [State.cycleEvents, State.enabled, State.presentedSlot, hs]

/-- In `SENDING` the adapter's frame is not taken. -/
theorem State.cycleEvents_of_txacc {k : Index} (hs : s.fsm = .sending) (hk : s.txIdx.val = k.val)
    (rx : Option RxFrame) (host : Option Event) :
    s.cycleEvents true rx true host false = .txacc :: .tick :: host.toList := by
  have hpresented : s.presentedSlot = some k := (s.presentedSlot_eq_some k).2 ⟨hs, hk⟩
  cases rx <;> simp [State.cycleEvents, State.enabled, hpresented, hs]

/-! The last step of a run. -/

theorem run_one (s : State) : Host.Core.run Sys2Proof.core 1 s = step s := by
  cases hstep : step s with
  | next t => exact run_of_step 0 hstep
  | fault r => cases r
  | refused r =>
    simp only [Host.Core.run]
    rw [show Sys2Proof.core.step s = .refused r from hstep]
    rfl

theorem run_hostWrite (s : State) (a : HostAddr) (v : Word) :
    Host.Core.run Sys2Proof.core 1 (s.withSchedule [.wr a v]) = (s.withSchedule []).hostWrite a v :=
  (run_one _).trans (step_wr rfl)

/-! The resolving frame and the resolving tick. -/

theorem State.tick_of_not_awaiting (hs : s.fsm ≠ .awaitingAck) : s.tick = s := if_neg hs

/-- A tick does not look at the coming steps. -/
theorem State.tick_withSchedule (s : State) (es : List Event) :
    (s.withSchedule es).tick = s.tick.withSchedule es := by
  rcases s.tick_cases with ⟨hs, h⟩ | ⟨hs, ht, h⟩ | ⟨hs, ht, h⟩ <;> rw [h]
  · exact State.tick_of_not_awaiting hs
  · exact State.tick_of_counting hs ht
  · exact State.tick_of_expired hs ht

theorem step_tick_withSchedule (s : State) :
    step (s.withSchedule (.tick :: rest)) = .next (s.tick.withSchedule rest) :=
  (step_tick rfl).trans (congrArg _ (s.tick_withSchedule rest))

/-- The packet satisfied (43_transmit.md R202). -/
def State.acknowledged (s : State) : State :=
  { s with ack1 := .status2, ack2 := .status2, fsm := .satisfied, ev := { s.ev with sat := true } }

theorem State.recordBoth_of_completesThePair (h : s.completesThePair f) :
    s.recordBoth f = { s with ack1 := .status2, ack2 := .status2 } := by
  obtain ⟨hbyte, hpair⟩ := h
  rcases hpair with ⟨hid, hack⟩ | ⟨hid, hack⟩ <;>
    simp [State.recordBoth, ackAfter_of_status (statusOf_of_two hbyte), hid, hack]

/-- From either responder the completing frame satisfies the packet. -/
theorem step_rx_completing (hs : s.fsm = .awaitingAck) (h : s.completesThePair f) :
    step (s.withSchedule (.rx f :: rest)) = .next (s.acknowledged.withSchedule rest) := by
  have hrecord := State.recordBoth_of_completesThePair h
  obtain ⟨hbyte, hpair⟩ := h
  have haccepted : accepted f :=
    accepted_iff.2 ⟨hpair.imp And.left And.left, _, statusOf_of_two hbyte⟩
  rw [step_rx_satisfying hs haccepted (by rw [hrecord]; rfl), hrecord]
  rfl

/-- The tick that falls in the same cycle finds the packet satisfied and does nothing. -/
theorem run_completing_cycle (n : Nat) (hs : s.fsm = .awaitingAck) (h : s.completesThePair f) :
    Host.Core.run Sys2Proof.core (n + 2) (s.withSchedule (.rx f :: .tick :: rest)) =
      Host.Core.run Sys2Proof.core n (s.acknowledged.withSchedule rest) := by
  have hignored : s.acknowledged.tick = s.acknowledged :=
    State.tick_of_not_awaiting (by simp [State.acknowledged])
  have htick := step_tick_withSchedule s.acknowledged (rest := rest)
  rw [hignored] at htick
  exact (run_of_step (n + 1) (step_rx_completing hs h)).trans (run_of_step n htick)

/-! The transmitted slot and the tick after it. -/

/-- A tick counts only when the slot sent before it was the last one, and then from `TIMER` 0. -/
theorem State.tick_transmit (hs : s.fsm = .sending) (k : Index) (f : Frame) :
    (s.transmit k f).tick = { s with
      emitted := s.emitted ++ [marshal f]
      txIdx := k.succ
      fsm := if k ≠ 5 then .sending else if s.timeout = 0 then .timedOut else .awaitingAck
      timer := if k = 5 then 1 else s.timer
      ev := if k = 5 ∧ s.timeout = 0 then { s.ev with timedOut := true } else s.ev } := by
  by_cases hk : k = 5
  · obtain ⟨hfsm, htimer⟩ := s.transmit_last_slot k f (congrArg Fin.val hk)
    by_cases ht : s.timeout = 0
    · have hexpired : (s.transmit k f).timeout.toNat < (s.transmit k f).timer.toNat + 1 := by
        simp [htimer, ht]
      rw [State.tick_of_expired hfsm hexpired, State.transmit_eq]
      simp [hk, ht]
    · have hcounting : (s.transmit k f).timer.toNat + 1 ≤ (s.transmit k f).timeout.toNat := by
        rw [htimer, s.transmit_timeout]
        exact Nat.pos_of_ne_zero fun h => ht (BitVec.eq_of_toNat_eq h)
      rw [State.tick_of_counting hfsm hcounting, State.transmit_eq]
      simp only [hk, ht, ne_eq, not_true_eq_false, if_true, if_false, and_false]
      rfl
  · have hsending : (s.transmit k f).fsm = .sending :=
      (s.transmit_earlier_slot k f fun h => hk (Fin.ext h)).1.trans hs
    rw [State.tick_of_not_awaiting (by simp [hsending]), State.transmit_eq]
    simp [hk, hs]

/-- A cycle with a completed handshake sends its slot before its tick. -/
theorem run_sending_cycle (n : Nat) {k : Index} (hs : s.fsm = .sending) (hk : s.txIdx.val = k.val) :
    Host.Core.run Sys2Proof.core (n + 2) (s.withSchedule (.txacc :: .tick :: rest)) =
      Host.Core.run Sys2Proof.core n ((s.transmit k (s.pkt.get k)).tick.withSchedule rest) := by
  have htick := step_tick_withSchedule (s.transmit k (s.pkt.get k)) (rest := rest)
  exact (run_of_step (n + 1) (step_txacc_withSchedule hs hk)).trans (run_of_step n htick)

/-- Settles O60: each cycle is its list of steps, run one by one. -/
theorem ackInTheDecidingCycleSatisfies : Obligations.AckInTheDecidingCycleSatisfies := by
  refine ⟨fun s f ready hs hf hcycle => ?satisfied,
    fun s t f ready a v hs hf hcycle ht => ⟨?satisfiedNotBusy, ?satisfiedThenWrite⟩,
    fun s t ready a v hs hexpired hcycle ht => ⟨?timedOutNotBusy, ?timedOutThenWrite⟩,
    fun s t k rx a v hs hk hcycle ht => ?sentThenWrite,
    fun s ready tick rx host hcycle => ?reset⟩
  case satisfied =>
    rw [State.cycleEvents_of_rx hs] at hcycle
    rw [State.eq_withSchedule hcycle]
    exact run_completing_cycle 0 hs hf
  case satisfiedNotBusy => rw [ht]; rfl
  case satisfiedThenWrite =>
    rw [State.cycleEvents_of_rx hs] at hcycle
    rw [State.eq_withSchedule hcycle, ht]
    exact (run_completing_cycle 1 hs hf).trans (run_hostWrite s.acknowledged a v)
  case timedOutNotBusy => rw [ht]; rfl
  case timedOutThenWrite =>
    rw [State.cycleEvents_of_no_rx hs] at hcycle
    rw [State.eq_withSchedule hcycle, ht]
    exact (run_of_step 1 (step_tick_expired hs hexpired)).trans (run_hostWrite (s.expired 1) a v)
  case sentThenWrite =>
    rw [State.cycleEvents_of_txacc hs hk] at hcycle
    rw [State.eq_withSchedule hcycle, ht]
    refine (run_sending_cycle 1 hs hk).trans ((run_hostWrite _ a v).trans ?_)
    rw [State.tick_transmit hs]
    rfl
  case reset => exact step_of_enabled hcycle rfl

end Sys2Proof.Machine
end

section
/-! Reset, and the frame of the sequencer's steps (70_reset_and_hazards.md R290 to R293, R319): what the
registers read after `RST`, and the registers that `TXACC`, `RX` and `TICK` write. -/

namespace Sys2Proof.Machine

variable {s t u : State}

/-! Reset. -/

/-- A reset is never held back, whatever is in progress (70_reset_and_hazards.md R290). -/
theorem step_rst {rest : List Event} (h : s.schedule = .rst :: rest) :
    step s = .next (s.withSchedule rest).hardwareReset := step_of_enabled h rfl

/-- Settles O54: the step is `State.hardwareReset`, which restores what is outside the block. -/
theorem resetKeepsWhatIsOutside : Obligations.ResetKeepsWhatIsOutside := fun _ _ h => step_rst h

/-- Settles O49: a reset establishes the invariant, and it gives the reset state back unchanged. -/
theorem invHoldsAfterReset : Obligations.InvHoldsAfterReset := State.reset.inv_hardwareReset

theorem EventFlags.clear_meets (f : EventFlags) : EventFlags.clear.meets f = false := by
  simp [EventFlags.meets, EventFlags.clear]

theorem State.irq_hardwareReset (s : State) : s.hardwareReset.irq = false :=
  EventFlags.clear_meets _

/-- No register shows what a reset keeps. -/
theorem State.regRead_hardwareReset (s : State) (r : HostReg) :
    s.hardwareReset.regRead r = State.reset.regRead r := by
  cases r <;> rfl

theorem State.regRead_reset_gear (i : Index) : State.reset.regRead (.gear i) = 0x00000100 := by
  simp [State.regRead, State.reset]

/-- The scalar registers are 0, and so is every entry of the register families but `GEAR`
(70_reset_and_hazards.md R291). -/
theorem State.regRead_reset_of_ne_gear {r : HostReg} (h : ∀ i, r ≠ .gear i) :
    State.reset.regRead r = 0 := by
  cases r with
  | gear i => exact absurd rfl (h i)
  | tgt i => exact Six.get_fill 0 i
  | lastLo i | lastHi i | initLo i | initHi i | pktw0 i | pktw1 i | pktw2 i =>
    simp only [State.regRead, State.reset, Six.get_fill]
    rfl
  | cmd | status | ev | ie | timeout | timer | feed | refSpeed | inv | fin0 | fin1 | fin2 => rfl

/-- Settles O53: the step answers `State.hardwareReset`, which is idle and reads as the reset state. -/
theorem resetLeavesTheStatedValues : Obligations.ResetLeavesTheStatedValues := by
  refine fun s rest h =>
    ⟨_, step_rst h, rfl, State.irq_hardwareReset _, rfl, fun _ => rfl, fun r => ?reads⟩
  case reads =>
    rw [State.memRead_regAddr, State.regRead_hardwareReset]
    split
    · next hgear =>
      obtain ⟨i, rfl⟩ := hgear
      exact State.regRead_reset_gear i
    · next hother => exact State.regRead_reset_of_ne_gear (not_exists.1 hother)

/-! The sequencer's steps. -/

/-- `t` is `s` but for the frames emitted, `TXIDX`, `FSM`, `TIMER`, `ACK` and `EV`. -/
def State.AgreesButSequencer (s t : State) : Prop :=
  t = { s with emitted := t.emitted, txIdx := t.txIdx, fsm := t.fsm, timer := t.timer
               ack1 := t.ack1, ack2 := t.ack2, ev := t.ev }

namespace State.AgreesButSequencer

theorem refl (s : State) : s.AgreesButSequencer s := rfl

theorem trans (hst : s.AgreesButSequencer t) (htu : t.AgreesButSequencer u) :
    s.AgreesButSequencer u := by
  refine Eq.trans htu ?_
  rw [hst]

theorem transmit (s : State) (i : Index) (f : Frame) : s.AgreesButSequencer (s.transmit i f) := by
  rw [State.transmit_eq]
  rfl

theorem txAcc (s : State) : s.AgreesButSequencer s.txAcc := by
  cases hslot : s.presentedSlot with
  | none => rw [State.txAcc_of_none hslot]; exact refl s
  | some i => rw [State.txAcc_of_presented hslot]; exact transmit s i _

theorem resolve (s : State) : s.AgreesButSequencer s.resolve := by
  rcases s.resolve_cases with ⟨-, h⟩ | ⟨-, h⟩ <;> rw [h] <;> rfl

/-- A status recorded writes one `ACK`; what may follow is the entry to `SATISFIED`. -/
theorem receive (s : State) (f : RxFrame) : s.AgreesButSequencer (s.receive f) := by
  rcases s.receive_cases f with h | ⟨st, -, -, ⟨-, h⟩ | ⟨-, h⟩⟩ <;> rw [h]
  · exact refl s
  · exact trans (t := { s with ack1 := st }) rfl (resolve _)
  · exact trans (t := { s with ack2 := st }) rfl (resolve _)

theorem tick (s : State) : s.AgreesButSequencer s.tick := by
  rcases s.tick_cases with ⟨-, h⟩ | ⟨-, -, h⟩ | ⟨-, -, h⟩ <;> rw [h] <;> rfl

end State.AgreesButSequencer

/-- Settles O56: each of the three steps writes the sequencer's registers only. -/
theorem sequencerStepsLeaveTheBuffer : Obligations.SequencerStepsLeaveTheBuffer := by
  rintro s t e h (rfl | rfl | ⟨f, rfl⟩) <;> obtain rfl := Host.Outcome.next.inj h
  · exact State.AgreesButSequencer.txAcc s
  · exact State.AgreesButSequencer.tick s
  · exact State.AgreesButSequencer.receive s f

end Sys2Proof.Machine
end
